-- ==== Sys2Proof/Word.lean ====
section
/-! DEFINITION. The word types of the LPE. All values are unsigned (00_scope.md, section 5). -/

namespace Sys2Proof

/-- An 8-bit value: a nibble byte, a controller command byte, a character code, an operand field. -/
abbrev Byte := BitVec 8

/-- Four bits: the data nibble of one nibble byte, or the injected shadow bits. -/
abbrev Nibble := BitVec 4

/-- The 24-bit request word of the command port (R57). -/
abbrev ReqWord := BitVec 24

/-- The 2-bit response of the command port (R60). -/
abbrev RspCode := BitVec 2

/-- A 7-bit I2C address (R38). -/
abbrev I2cAddress := BitVec 7

end Sys2Proof
end

