-- ==== Sys2Proof/Config.lean ====
section
/-! DEFINITION. The implementation parameters of R5, as one record, and the values the
spec leaves open, as constants with no body. The defaults stand in Machine/Parameters.lean. -/

namespace Sys2Proof

/-- The transport's answer to one write (R30). -/
inductive Answer where
  | ok
  | fail
  deriving DecidableEq, Repr, Inhabited

/-- The four per-instance constants of R6 and R22, and the bus rate of R5. The identifiers are opaque
names that belong to the transport; a natural number stands for a name (log 4). -/
structure Identity where
  busAddress  : I2cAddress
  busSelector : Nat
  sdaPin      : Nat
  sclPin      : Nat
  bitRate     : Nat
  deriving DecidableEq, Repr

/-- The six durations, in microseconds (R5, R127). -/
structure Timing where
  fastDelay : Nat
  slowDelay : Nat
  powerOn   : Nat
  init1     : Nat
  init2     : Nat
  preClear  : Nat
  deriving DecidableEq, Repr

/-- The legal cursor range and the two DDRAM bases (R5, R88). -/
structure Geometry where
  lines     : Nat
  columns   : Nat
  line0Base : Byte
  line1Base : Byte
  deriving DecidableEq, Repr

/-- The controller's command constants: the opcode bits (R53), the function-set masks and the bit
position of each shadow flag inside the command byte (R56). "A model should take the seven positions and
the two function-set masks from the configuration record" (R56). -/
structure CommandTable where
  opClear   : Byte
  opHome    : Byte
  opEntry   : Byte
  opDispctl : Byte
  opShift   : Byte
  opFunc    : Byte
  opCgram   : Byte
  opDdram   : Byte
  func8bit  : Byte
  func2line : Byte
  posShiftTarget     : Nat
  posShiftRight      : Nat
  posDisplayOn       : Nat
  posCursorVisible   : Nat
  posBlinking        : Nat
  posCursorDirection : Nat
  posDisplayShift    : Nat
  deriving DecidableEq, Repr

/-- The configuration record of R5. `strict` is `STRICT_SEQUENCING`, `countW` is `COUNT_W` (log 5). -/
structure Config where
  identity : Identity
  timing   : Timing
  geometry : Geometry
  table    : CommandTable
  strict   : Bool
  countW   : Nat
  deriving DecidableEq, Repr

/-- `BUS_SELECTOR` has no default, it is supplied per instance (R5): a free value. -/
opaque Config.freeBusSelector : Nat

/-- `SDA_PIN` has no default, it is supplied per instance (R5): a free value. -/
opaque Config.freeSdaPin : Nat

/-- `SCL_PIN` has no default, it is supplied per instance (R5): a free value. -/
opaque Config.freeSclPin : Nat

/-- The transport's answer to the `n`-th write of the instance of an identity: a free input, "a draw",
under no law (U2 of 93_implementation_defined.md; R119). That it is a function of these two is the model's
choice: two instances of one identity are answered alike, write for write (log 1). -/
opaque Config.transportAnswer : Identity → Nat → Answer

end Sys2Proof
end

