-- ==== Sys2Proof/Syntax.lean ====
section
/-! DEFINITION. The instruction set of R2 at its three levels, one constructor for each row of
spec/opcode_table.json: requests (level H), controller command bytes handed to `sendByte` (level M), and
nibble bytes and response codes (level W and the response port). -/

namespace Sys2Proof

/-- The second operand of `sendByte` (R71): the RegisterSelect bit, Command 0, Data 1. -/
inductive Mode where
  | command
  | data
  deriving DecidableEq, Repr

/-- Which of the design's two settle delays the caller of `sendByte` selects (R76, D17). -/
inductive Settle where
  | fast
  | slow
  deriving DecidableEq, Repr

/-- The context of a micro-operation (R125). -/
inductive Context where
  | host
  | init
  deriving DecidableEq, Repr

/-- The class of a command byte (R53, R72). -/
inductive Family where
  | ddram
  | cgram
  | func
  | shift
  | dispctl
  | entry
  | other
  deriving DecidableEq, Repr

/-- What the caller of `sendByte` gives beside the command byte (R71): its choice of settle delay and
its context. Neither is a bit of the byte. -/
structure Caller where
  settle : Settle
  ctx    : Context
  deriving DecidableEq, Repr

/-- One constructor per row of the opcode table. -/
inductive Instr where
  -- level H: the request word (R57, R58)
  | init
  | clear
  | writeChar (ch : Byte)
  | setCursor (line column : Byte)
  | setDisplay (on : Bool)
  | setBacklight (on : Bool)
  | setCursorVisible (on : Bool)
  | setBlink (on : Bool)
  | shiftDisplay (right : Bool) (count : Nat)
  | shiftCursor (right : Bool) (count : Nat)
  | sendByte (value : Byte) (mode : Mode) (settle : Settle)
  -- level M: one Command-mode `sendByte`, by the family of its byte (R53, R54)
  | cmdDdram (caller : Caller) (address : BitVec 7)
  | cmdCgram (caller : Caller) (address : BitVec 6)
  | cmdFunc (caller : Caller) (dl n f : Bool) (x : BitVec 2)
  | cmdShift (caller : Caller) (sc rl : Bool) (x : BitVec 2)
  | cmdDispctl (caller : Caller) (d c b : Bool)
  | cmdEntry (caller : Caller) (incr shift : Bool)
  | cmdOther (caller : Caller) (x : BitVec 2)
  -- level W: one write to the expander (R50, R70)
  | nibbleEnSet (data : Nibble) (backlight registerSelect : Bool)
  | nibbleEnClr (data : Nibble) (backlight registerSelect : Bool)
  -- the response port (R60)
  | rspOk
  | rspInvalidArgument
  | rspTransportFailure
  | rspSequencingViolation
  deriving DecidableEq, Repr

/-- An encoded instruction together with the channel it stands on. The formats of 30_encoding.md share
their bit patterns (the byte 0x04 is an entry-mode command and a nibble byte with Enable set), so a
pattern has a meaning only on a channel: the command port, the input of `sendByte`, the I2C data byte, or
the response port. -/
inductive Code where
  | req (w : ReqWord)
  | cmd (v : Byte) (caller : Caller)
  | nib (b : Byte)
  | rsp (c : RspCode)
  deriving DecidableEq, Repr

/-- The width the opcode table gives a code of this channel. -/
def Code.width : Code → Nat
  | .req _ => 24
  | .cmd _ _ => 8
  | .nib _ => 8
  | .rsp _ => 2

end Sys2Proof
end

