-- ==== Sys2Proof/WellFormed.lean ====
section
/-! DEFINITION. Which terms of `Instr` an encoding can hold. Every operand but a shift count is a bit
vector or a bit of the width its field has; a shift count is a number of repetitions, and its field has
eight bits (R58, R59, R65 (5)). -/

namespace Sys2Proof

/-- A shift count fits its field, `B[7:0]`. -/
def countFits (count : Nat) : Bool := decide (count < 2 ^ 8)

/-- The instruction has an encoding. -/
def Instr.wellFormed : Instr → Bool
  | .shiftDisplay _ count => countFits count
  | .shiftCursor _ count => countFits count
  | .init => true
  | .clear => true
  | .writeChar _ => true
  | .setCursor _ _ => true
  | .setDisplay _ => true
  | .setBacklight _ => true
  | .setCursorVisible _ => true
  | .setBlink _ => true
  | .sendByte _ _ _ => true
  | .cmdDdram _ _ => true
  | .cmdCgram _ _ => true
  | .cmdFunc _ _ _ _ _ => true
  | .cmdShift _ _ _ _ => true
  | .cmdDispctl _ _ _ _ => true
  | .cmdEntry _ _ _ => true
  | .cmdOther _ _ => true
  | .nibbleEnSet _ _ _ => true
  | .nibbleEnClr _ _ _ => true
  | .rspOk => true
  | .rspInvalidArgument => true
  | .rspTransportFailure => true
  | .rspSequencingViolation => true

end Sys2Proof
end

