-- ==== Sys2Proof/Decode.lean ====
section
/-! DEFINITION. Decoding, total on every code of every channel, and the encoder written from the same
tables: R57, R58 and R59 (requests), R53 and R54 (command bytes), R50 (nibble bytes), R60 (responses). -/

namespace Sys2Proof

/-- Why a code is no instruction. -/
inductive DecodeError where
  /-- A request opcode 0x0B to 0xFF (R58, R61). -/
  | reservedOpcode (op : Byte)
  /-- A nibble byte whose ReadWrite bit is 1 (R50, R61). -/
  | readWriteSet (b : Byte)
  deriving DecidableEq, Repr

/-! ### Fields of the request word (R57, R59) -/

/-- Field `op`, bits 23 to 16. -/
def reqOp (w : ReqWord) : Byte := w.extractLsb' 16 8

/-- Field `A`, bits 15 to 8. -/
def reqA (w : ReqWord) : Byte := w.extractLsb' 8 8

/-- Field `B`, bits 7 to 0. -/
def reqB (w : ReqWord) : Byte := w.extractLsb' 0 8

/-- A boolean operand is bit 0 of its field; the other seven bits are ignored (R59). -/
def boolOperand (field : Byte) : Bool := field.getLsbD 0

/-- `mode`: 0 Command, 1 Data (R59). -/
def modeOperand (m : Bool) : Mode := if m then .data else .command

/-- `slow`: 0 selects the fast delay, 1 the slow one (R59). -/
def settleOperand (slow : Bool) : Settle := if slow then .slow else .fast

/-- The request opcodes of R58. -/
def decodeRequest (w : ReqWord) : Except DecodeError Instr :=
  let a := reqA w
  let b := reqB w
  match (reqOp w).toNat with
  | 0x00 => .ok .init
  | 0x01 => .ok .clear
  | 0x02 => .ok (.writeChar b)
  | 0x03 => .ok (.setCursor a b)
  | 0x04 => .ok (.setDisplay (boolOperand b))
  | 0x05 => .ok (.setBacklight (boolOperand b))
  | 0x06 => .ok (.setCursorVisible (boolOperand b))
  | 0x07 => .ok (.setBlink (boolOperand b))
  | 0x08 => .ok (.shiftDisplay (boolOperand a) b.toNat)
  | 0x09 => .ok (.shiftCursor (boolOperand a) b.toNat)
  | 0x0A => .ok (.sendByte b (modeOperand (a.getLsbD 0)) (settleOperand (a.getLsbD 1)))
  | _ => .error (.reservedOpcode (reqOp w))

/-- The command byte's row: the first set bit from bit 7 down to bit 2 decides (R53, R54). Every byte
has a row. -/
def decodeCommand (caller : Caller) (v : Byte) : Instr :=
  if v.getLsbD 7 then .cmdDdram caller (v.extractLsb' 0 7)
  else if v.getLsbD 6 then .cmdCgram caller (v.extractLsb' 0 6)
  else if v.getLsbD 5 then .cmdFunc caller (v.getLsbD 4) (v.getLsbD 3) (v.getLsbD 2) (v.extractLsb' 0 2)
  else if v.getLsbD 4 then .cmdShift caller (v.getLsbD 3) (v.getLsbD 2) (v.extractLsb' 0 2)
  else if v.getLsbD 3 then .cmdDispctl caller (v.getLsbD 2) (v.getLsbD 1) (v.getLsbD 0)
  else if v.getLsbD 2 then .cmdEntry caller (v.getLsbD 1) (v.getLsbD 0)
  else .cmdOther caller (v.extractLsb' 0 2)

/-- The nibble byte's row, by Enable (bit 2); ReadWrite (bit 1) is never 1 (R50, R61). -/
def decodeNibble (b : Byte) : Except DecodeError Instr :=
  if b.getLsbD 1 then .error (.readWriteSet b)
  else if b.getLsbD 2 then .ok (.nibbleEnSet (b.extractLsb' 4 4) (b.getLsbD 3) (b.getLsbD 0))
  else .ok (.nibbleEnClr (b.extractLsb' 4 4) (b.getLsbD 3) (b.getLsbD 0))

/-- The four result codes of R60. -/
def decodeResponse (c : RspCode) : Instr :=
  match c.toNat with
  | 0 => .rspOk
  | 1 => .rspInvalidArgument
  | 2 => .rspTransportFailure
  | _ => .rspSequencingViolation

/-- The decoder. -/
def decode : Code → Except DecodeError Instr
  | .req w => decodeRequest w
  | .cmd v caller => .ok (decodeCommand caller v)
  | .nib b => decodeNibble b
  | .rsp c => .ok (decodeResponse c)

/-! ### The encoder -/

/-- A boolean operand as a field: bit 0, the ignored bits zero (R63). -/
def boolField (b : Bool) : Byte := 0#7 ++ BitVec.ofBool b

/-- The request word of an opcode and its two fields (R57). -/
def reqWord (op a b : Byte) : ReqWord := op ++ a ++ b

/-- Field `A` of SEND_BYTE: `slow << 1 | mode` (R63). -/
def sendByteField (mode : Mode) (settle : Settle) : Byte :=
  0#6 ++ BitVec.ofBool (settle == .slow) ++ BitVec.ofBool (mode == .data)

/-- `1 a a a a a a a` (R54). -/
def ddramByte (address : BitVec 7) : Byte := 1#1 ++ address

/-- `0 1 a a a a a a` (R54). -/
def cgramByte (address : BitVec 6) : Byte := 0b01#2 ++ address

/-- `0 0 1 DL N F x x` (R54). -/
def funcByte (dl n f : Bool) (x : BitVec 2) : Byte :=
  0b001#3 ++ BitVec.ofBool dl ++ BitVec.ofBool n ++ BitVec.ofBool f ++ x

/-- `0 0 0 1 SC RL x x` (R54). -/
def shiftByte (sc rl : Bool) (x : BitVec 2) : Byte :=
  0b0001#4 ++ BitVec.ofBool sc ++ BitVec.ofBool rl ++ x

/-- `0 0 0 0 1 D C B` (R54). -/
def dispctlByte (d c b : Bool) : Byte :=
  0b00001#5 ++ BitVec.ofBool d ++ BitVec.ofBool c ++ BitVec.ofBool b

/-- `0 0 0 0 0 1 ID S` (R54). -/
def entryByte (incr shift : Bool) : Byte :=
  0b000001#6 ++ BitVec.ofBool incr ++ BitVec.ofBool shift

/-- `0 0 0 0 0 0 x x` (R54). -/
def otherByte (x : BitVec 2) : Byte := 0b000000#6 ++ x

/-- `data | Backlight | Enable | ReadWrite = 0 | RegisterSelect` (R50). -/
def nibbleByte (data : Nibble) (backlight enable registerSelect : Bool) : Byte :=
  data ++ BitVec.ofBool backlight ++ BitVec.ofBool enable ++ 0#1 ++ BitVec.ofBool registerSelect

/-- The code of a well-formed instruction; ignored fields are zero (R63). -/
def encode : Instr → Code
  | .init => .req (reqWord 0x00#8 0#8 0#8)
  | .clear => .req (reqWord 0x01#8 0#8 0#8)
  | .writeChar ch => .req (reqWord 0x02#8 0#8 ch)
  | .setCursor line column => .req (reqWord 0x03#8 line column)
  | .setDisplay on => .req (reqWord 0x04#8 0#8 (boolField on))
  | .setBacklight on => .req (reqWord 0x05#8 0#8 (boolField on))
  | .setCursorVisible on => .req (reqWord 0x06#8 0#8 (boolField on))
  | .setBlink on => .req (reqWord 0x07#8 0#8 (boolField on))
  | .shiftDisplay right count => .req (reqWord 0x08#8 (boolField right) (BitVec.ofNat 8 count))
  | .shiftCursor right count => .req (reqWord 0x09#8 (boolField right) (BitVec.ofNat 8 count))
  | .sendByte value mode settle => .req (reqWord 0x0A#8 (sendByteField mode settle) value)
  | .cmdDdram caller address => .cmd (ddramByte address) caller
  | .cmdCgram caller address => .cmd (cgramByte address) caller
  | .cmdFunc caller dl n f x => .cmd (funcByte dl n f x) caller
  | .cmdShift caller sc rl x => .cmd (shiftByte sc rl x) caller
  | .cmdDispctl caller d c b => .cmd (dispctlByte d c b) caller
  | .cmdEntry caller incr shift => .cmd (entryByte incr shift) caller
  | .cmdOther caller x => .cmd (otherByte x) caller
  | .nibbleEnSet data backlight rs => .nib (nibbleByte data backlight true rs)
  | .nibbleEnClr data backlight rs => .nib (nibbleByte data backlight false rs)
  | .rspOk => .rsp 0#2
  | .rspInvalidArgument => .rsp 1#2
  | .rspTransportFailure => .rsp 2#2
  | .rspSequencingViolation => .rsp 3#2

/-! ### The opcode table's words -/

/-- The channel of a table word, by its width: 24 bits a request, 8 bits a command byte (from the host,
with the fast delay), 2 bits a response. The table's 8-bit rows are of two formats, CMD and NIBBLE, with
the same bit patterns, and a response row counted in whole bytes has 8 bits too; a bare word cannot tell
them apart, and an 8-bit word is read as a command byte (log 8). -/
def codeOfTableWord (nbits w : Nat) : Option Code :=
  match nbits with
  | 24 => some (.req (BitVec.ofNat 24 w))
  | 8 => some (.cmd (BitVec.ofNat 8 w) ⟨.fast, .host⟩)
  | 2 => some (.rsp (BitVec.ofNat 2 w))
  | _ => none

/-- The instruction the decoder reads from a word of the opcode table. -/
def decodeTableWord (nbits w : Nat) : Option Instr :=
  match codeOfTableWord nbits w with
  | none => none
  | some c =>
    match decode c with
    | .ok i => some i
    | .error _ => none

end Sys2Proof
end

