-- ==== Sys2Proof/Machine/Parameters.lean ====
section
/-! DEFINITION. The default values of the parameters (R5, R53, R56). -/

namespace Sys2Proof

/-- The command table of R53 and R56 at its defaults. All but `opDdram` are the spec's from general
knowledge, marked so there (D13; log 3). -/
def CommandTable.hd44780 : CommandTable where
  opClear   := 0x01#8
  opHome    := 0x02#8
  opEntry   := 0x04#8
  opDispctl := 0x08#8
  opShift   := 0x10#8
  opFunc    := 0x20#8
  opCgram   := 0x40#8
  opDdram   := 0x80#8
  func8bit  := 0x10#8
  func2line := 0x08#8
  posShiftTarget     := 3
  posShiftRight      := 2
  posDisplayOn       := 2
  posCursorVisible   := 1
  posBlinking        := 0
  posCursorDirection := 1
  posDisplayShift    := 0

/-- Two lines of sixteen columns (R5). -/
def Geometry.lcd1602 : Geometry where
  lines     := 2
  columns   := 16
  line0Base := 0x80#8
  line1Base := 0xC0#8

/-- The durations of R5 at their defaults. -/
def Timing.standard : Timing where
  fastDelay := 80
  slowDelay := 2000
  powerOn   := 40000
  init1     := 4100
  init2     := 100
  preClear  := 1000

/-- The identity of the instance of `State.reset`: the default address and rate, and free names. -/
def Identity.standard : Identity where
  busAddress  := 0x27#7
  busSelector := Config.freeBusSelector
  sdaPin      := Config.freeSdaPin
  sclPin      := Config.freeSclPin
  bitRate     := 100000

/-- Every parameter of R5 at its default. -/
def Config.standard : Config where
  identity := Identity.standard
  timing   := Timing.standard
  geometry := Geometry.lcd1602
  table    := CommandTable.hd44780
  strict   := true
  countW   := 8

end Sys2Proof
end

