-- ==== Sys2Proof/Machine/State.lean ====
section
/-! DEFINITION. The state of one LPE instance (10_state.md) with the two ends of its channels: what the
environment presents to it and what it has emitted. Plain data. The block has no memory (20_memory.md). -/

namespace Sys2Proof.Machine

/-- The eight shadow flags, the document's `status` (R10 to R18). -/
structure ControlState where
  cursorDirection      : Bool
  cursorVisible        : Bool
  displayShiftOnWrite  : Bool
  displayOn            : Bool
  blinking             : Bool
  backlightOn          : Bool
  shiftTargetIsDisplay : Bool
  shiftDirectionRight  : Bool
  deriving DecidableEq, Repr

/-- The state of the initialization machine, in the order of its chain (R20). -/
inductive Phase where
  | uninitialized
  | busConfigured
  | forcedEightBit
  | fourBitMode
  | entryConfigured
  | functionConfigured
  | displayConfigured
  | cleared
  | ready
  deriving DecidableEq, Repr

/-- One output event: `W(b)`, `D(n)` or `Cfg(bus, sda, scl, rate)` (00_scope.md section 5, R30 to R32). -/
inductive Event where
  | write (b : Byte)
  | delay (n : Nat)
  | configure (bus sda scl rate : Nat)
  deriving DecidableEq, Repr

/-- The call on a collaborator that an event stands for (R30, R31, R32). -/
inductive Call where
  | i2cWrite (bus : Nat) (address : I2cAddress) (b : Byte)
  | delay (microseconds : Nat)
  | configureBus (bus sdaPin sclPin bitRate : Nat)
  deriving DecidableEq, Repr

/-- One entry of the sequencer's queue: an event still to be emitted (R21), or the point of INIT's trace
at which `phase` advances (R106). -/
inductive Item where
  | emit (e : Event)
  | enter (p : Phase)
  deriving DecidableEq, Repr

/-- The result of an operation (R115). -/
inductive Result where
  | ok
  | invalidArgument
  | transportFailure
  | sequencingViolation
  deriving DecidableEq, Repr

/-- Why the machine stops. None of the result codes is one: they complete an operation and the block goes
on (R115). -/
inductive Fault where
  /-- Raised by `rejectCode`, when the byte of the next write has ReadWrite = 1. "The ReadWrite bit of a
  nibble byte is never 1" (R61), so the spec gives such a write no meaning. No queue the engine builds
  holds one. Safe: the model stops, it claims nothing. -/
  | readWriteBitSet (b : Byte)
  deriving DecidableEq, Repr

/-- Why an instruction has no meaning in the model. -/
inductive Refusal where
  /-- Raised only by an arm of `exec` whose instruction has no meaning yet; there is none. Safe. -/
  | notModelled (mnemonic : String)
  deriving DecidableEq, Repr

/-- One instance of the block. -/
structure State where
  /-- The parameters of the instance, constant (R5, R6, R22). -/
  cfg       : Config
  /-- The shadow flags (R10). -/
  st        : ControlState
  /-- The phase of the initialization machine (R20). -/
  phase     : Phase
  /-- An operation is running (R21). -/
  busy      : Bool
  /-- The rest of the running operation's trace (R21), with the phase changes of INIT (R106). -/
  queue     : List Item
  /-- Some write of the running operation was answered `fail` (R23). -/
  tf        : Bool
  /-- The result code of the last completed operation (R23). -/
  rsp       : RspCode
  /-- Output: the events emitted so far, oldest first (R40). -/
  trace     : List Event
  /-- Output: the responses presented so far, oldest first (R33). -/
  responses : List RspCode
  /-- Input: what stands at the block, to be taken in order when idle. The host presents requests (R33);
  the other three channels are internal (log 7). -/
  input     : List Code
  /-- Input: the reset input is asserted (R135). -/
  resetIn   : Bool
  /-- Input: the collaborator that is called next has not returned (R151). -/
  stalled   : Bool
  /-- The model's own: how many answers of the transport have been drawn (log 1). -/
  draws     : Nat
  deriving DecidableEq, Repr

/-- What the engine does next: a step of its own, or running the instruction of a code at a state. -/
inductive Advance where
  | quiet (t : State)
  | run (c : Code) (t : State)
  deriving DecidableEq, Repr

/-- The flags' defaults (R10). -/
def ControlState.defaults : ControlState where
  cursorDirection      := true
  cursorVisible        := false
  displayShiftOnWrite  := false
  displayOn            := true
  blinking             := false
  backlightOn          := true
  shiftTargetIsDisplay := false
  shiftDirectionRight  := false

/-- The state after reset (R135), of the instance with the default parameters, which has emitted and
been presented nothing. -/
def State.reset : State where
  cfg       := Config.standard
  st        := ControlState.defaults
  phase     := .uninitialized
  busy      := false
  queue     := []
  tf        := false
  rsp       := 0#2
  trace     := []
  responses := []
  input     := []
  resetIn   := false
  stalled   := false
  draws     := 0

end Sys2Proof.Machine
end

