-- ==== Sys2Proof/Machine/Operands.lean ====
section
/-! DEFINITION. Operand assembly: the nibble split, the control bits, the DDRAM address, the settle
delay, the cursor range (R51, R52, R55, R76, R88). -/

namespace Sys2Proof.Machine

/-- The bit `b` at position `n` of a byte. -/
def bitAt (b : Bool) (n : Nat) : Byte := (BitVec.ofBool b).setWidth 8 <<< n

/-- The mode bit (R51). -/
def isData (m : Mode) : Bool := decide (m = .data)

/-- The high data nibble, where it stands (R52). -/
def hiData (v : Byte) : Byte := v &&& 0xF0#8

/-- The low data nibble, moved to bits 7 to 4 (R52). -/
def loData (v : Byte) : Byte := (v <<< 4) &&& 0xF0#8

/-- The control bits with Enable clear: Backlight at bit 3, RegisterSelect at bit 0 (R51). -/
def ctl (m : Mode) (backlight : Bool) : Byte := bitAt backlight 3 ||| bitAt (isData m) 0

/-- `EN`, the Enable mask (R51). -/
def enableMask : Byte := 0x04#8

/-- The set-DDRAM-address command of SET_CURSOR (R55, R88). At the default geometry the addition does not
overflow (R55); at another it may, and the model wraps it to eight bits, which the spec leaves open
(DESIGN CHOICE, log 12). -/
def ddramCommand (g : Geometry) (line column : Byte) : Byte :=
  (if line = 0#8 then g.line0Base else g.line1Base) + column

/-- The guard of SET_CURSOR (R88): `line <= 1` and `column <= 15` at the default geometry. -/
def cursorInRange (g : Geometry) (line column : Byte) : Bool :=
  decide (line.toNat < g.lines) && decide (column.toNat < g.columns)

/-- The shift count of a request: a number of `COUNT_W` bits (R5, R65 (5)). At the default width this is
the whole field; that a narrower one takes the low bits of the field is the model's choice (DESIGN CHOICE,
log 5). -/
def countOperand (width count : Nat) : Nat := count % 2 ^ width

/-- The settle delay a caller selects (R76). -/
def settleDelay (t : Timing) : Settle → Nat
  | .fast => t.fastDelay
  | .slow => t.slowDelay

end Sys2Proof.Machine
end

