-- ==== Sys2Proof/Machine/Flags.lean ====
section
/-! DEFINITION. The control-bit state tracker: the family of a command byte, the shadow bits it gets,
the family guard, and the flag writes of the operations (R72, R73, R74, R77; R88 to R94). -/

namespace Sys2Proof.Machine

/-- `family(v)`: the bitmask test in the document's order (R72). -/
def family (t : CommandTable) (v : Byte) : Family :=
  if v &&& t.opDdram ≠ 0#8 then .ddram
  else if v &&& t.opCgram ≠ 0#8 then .cgram
  else if v &&& t.opFunc ≠ 0#8 then .func
  else if v &&& t.opShift ≠ 0#8 then .shift
  else if v &&& t.opDispctl ≠ 0#8 then .dispctl
  else if v &&& t.opEntry ≠ 0#8 then .entry
  else .other

/-- The flag `b` at bit `n` of the injected nibble (R56). -/
def flagAt (b : Bool) (n : Nat) : Nibble := (BitVec.ofBool b).setWidth 4 <<< n

/-- `inject(v, st)`: the shadow bits of the byte's family (R73). -/
def inject (t : CommandTable) (st : ControlState) (v : Byte) : Nibble :=
  match family t v with
  | .ddram => 0#4
  | .cgram => 0#4
  | .func => 0#4
  | .shift => flagAt st.shiftTargetIsDisplay t.posShiftTarget ||| flagAt st.shiftDirectionRight t.posShiftRight
  | .dispctl =>
    flagAt st.displayOn t.posDisplayOn ||| flagAt st.cursorVisible t.posCursorVisible
      ||| flagAt st.blinking t.posBlinking
  | .entry => flagAt st.cursorDirection t.posCursorDirection ||| flagAt st.displayShiftOnWrite t.posDisplayShift
  | .other => 0#4

/-- `eff(v, st)`: the byte the controller reassembles (R77). -/
def eff (t : CommandTable) (st : ControlState) (v : Byte) : Byte := v ||| (inject t st v).setWidth 8

/-- `admitted(f, ctx)` (R74). -/
def admitted (f : Family) (ctx : Context) : Bool :=
  match f with
  | .cgram => false
  | .func => decide (ctx = .init)
  | .ddram => true
  | .shift => true
  | .dispctl => true
  | .entry => true
  | .other => true

/-- The guard of `sendByte`: made in Command mode only (R71, R74, R78). -/
def sendAdmitted (t : CommandTable) (m : Mode) (v : Byte) (ctx : Context) : Bool :=
  match m with
  | .command => admitted (family t v) ctx
  | .data => true

/-- SET_DISPLAY's flag write (R89). -/
def ControlState.setDisplay (st : ControlState) (on : Bool) : ControlState :=
  { st with displayOn := on }

/-- SET_BACKLIGHT's flag writes: the coupling is kept (R90, R145). -/
def ControlState.setBacklight (st : ControlState) (on : Bool) : ControlState :=
  { st with backlightOn := on, displayOn := on }

/-- SET_CURSOR_VISIBLE's flag write (R91). -/
def ControlState.setCursorVisible (st : ControlState) (on : Bool) : ControlState :=
  { st with cursorVisible := on }

/-- SET_BLINK's flag write (R92). -/
def ControlState.setBlink (st : ControlState) (on : Bool) : ControlState :=
  { st with blinking := on }

/-- The flag writes of a shift with a count above zero (R93, R94). -/
def ControlState.setShift (st : ControlState) (display right : Bool) : ControlState :=
  { st with shiftTargetIsDisplay := display, shiftDirectionRight := right }

end Sys2Proof.Machine
end

