-- ==== Sys2Proof/Machine/Ops.lean ====
section
/-! DEFINITION. The shared operations: the traces of `pulse` and `sendByte`, emitting one event,
accepting and completing an operation, rejecting one (`raise`), and the block's reset. -/

namespace Sys2Proof.Machine

/-! ### Traces -/

/-- `pulse(n, d)` (R70). -/
def pulse (n : Byte) (d : Nat) : List Event :=
  [.write (n ||| enableMask), .delay d, .write (n &&& ~~~enableMask), .delay d]

/-- The high nibble byte of `sendByte`, with Enable clear (R71). -/
def hiByte (st : ControlState) (v : Byte) (m : Mode) : Byte := hiData v ||| ctl m st.backlightOn

/-- The low nibble byte of `sendByte`, with Enable clear: the only one that gets the injected bits, and
only in Command mode (R71, R78). -/
def loByte (t : CommandTable) (st : ControlState) (v : Byte) (m : Mode) : Byte :=
  match m with
  | .command => loData v ||| ctl m st.backlightOn ||| ((inject t st v).setWidth 8 <<< 4)
  | .data => loData v ||| ctl m st.backlightOn

/-- The trace of an admitted `sendByte(v, m, d, ctx)` (R71). -/
def sendTrace (t : CommandTable) (st : ControlState) (v : Byte) (m : Mode) (d : Nat) : List Event :=
  pulse (hiByte st v m) d ++ pulse (loByte t st v m) d

/-- A trace as entries of the queue. -/
def items (es : List Event) : List Item := es.map .emit

/-- A trace repeated `count` times (R93). -/
def repeated (count : Nat) (es : List Event) : List Event := (List.replicate count es).flatten

/-- The call on a collaborator that an event stands for: every write goes to the instance's one address
on its one bus (R30 to R32, R38). -/
def Event.call (id : Identity) : Event → Call
  | .write b => .i2cWrite id.busSelector id.busAddress b
  | .delay n => .delay n
  | .configure bus sda scl rate => .configureBus bus sda scl rate

/-- The calls a trace stands for. -/
def calls (id : Identity) (es : List Event) : List Call := es.map (Event.call id)

/-! ### Results -/

/-- The numbering of R60. -/
def Result.code : Result → RspCode
  | .ok => 0#2
  | .invalidArgument => 1#2
  | .transportFailure => 2#2
  | .sequencingViolation => 3#2

/-- The result of an operation that ran (R119). -/
def completion (tf : Bool) : Result := if tf then .transportFailure else .ok

/-! ### The outputs of R26 -/

/-- The output `ready`: 1 exactly when `phase = Ready`. -/
def State.ready (s : State) : Bool := decide (s.phase = .ready)

/-! ### Updates of the state -/

/-- Take the head of the queue away. -/
def State.setQueue (s : State) (q : List Item) : State := { s with queue := q }

/-- Take the head of the input away. -/
def State.setInput (s : State) (cs : List Code) : State := { s with input := cs }

/-- Advance the phase (R106). -/
def State.enterPhase (s : State) (p : Phase) : State := { s with phase := p }

/-- Emit a delay or a bus configuration: it has no answer the block uses (R31, R32). -/
def State.emit (s : State) (e : Event) : State := { s with trace := s.trace ++ [e] }

/-- Emit `W(b)` and take the transport's answer: the write is atomic (R37), `tf` is set by `fail` and
never cleared by `ok` (R23, R119). -/
def State.emitWrite (s : State) (b : Byte) (a : Answer) : State :=
  { s with
    trace := s.trace ++ [.write b]
    tf := s.tf || decide (a = .fail)
    draws := s.draws + 1 }

/-- Present a response: `rsp` takes the code and no operation runs any more (R21, R33, R121). -/
def State.respond (s : State) (r : Result) : State :=
  { s with
    rsp := r.code
    busy := false
    responses := s.responses ++ [r.code] }

/-- Accept an operation: its flag writes are made and its whole trace is queued in the one step of
acceptance (R21, R43). -/
def State.accept (s : State) (st : ControlState) (q : List Item) : State :=
  { s with
    st := st
    busy := true
    queue := q
    tf := false }

/-- The reset input (R135, R136): every state element at its reset value, the running operation
abandoned without a response, nothing emitted. The parameters and what the environment holds stay. -/
def State.blockReset (s : State) : State :=
  { s with
    st := ControlState.defaults
    phase := .uninitialized
    busy := false
    queue := []
    tf := false
    rsp := 0#2
    resetIn := false }

/-- Present a code at the block and let it be idle, so that the next step takes it. -/
def State.loadCode (s : State) (c : Code) : State :=
  { s with
    busy := false
    queue := []
    input := c :: s.input
    resetIn := false }

/-! ### Rejecting and running -/

/-- `raise`: complete with a result other than OK, having emitted nothing and changed nothing else
(R121). It is decided before the operation has any effect, and control goes nowhere (R122). -/
def raise (r : Result) (s : State) : Host.Outcome State Fault Refusal := .next (s.respond r)

/-- The prelude of every request but INIT (R85). -/
def sequenced (s : State) : Bool := !s.cfg.strict || decide (s.phase = .ready)

/-- Run `body` behind the prelude (R85, R120). -/
def prelude (s : State) (body : Host.Outcome State Fault Refusal) : Host.Outcome State Fault Refusal :=
  if sequenced s then body else raise .sequencingViolation s

/-- `count` identical transmissions `sendByte(v, m, d, ctx)` after the flag writes `st`. The guard comes
first, so a rejected one writes no flag (R71, R74, R120). -/
def transmit (st : ControlState) (count : Nat) (v : Byte) (m : Mode) (d : Nat) (ctx : Context) (s : State) :
    Host.Outcome State Fault Refusal :=
  if sendAdmitted s.cfg.table m v ctx then
    .next (s.accept st (items (repeated count (sendTrace s.cfg.table st v m d))))
  else
    raise .invalidArgument s

/-- The display-control command after the flag writes `st` (R89 to R92). -/
def resendDisplayControl (st : ControlState) (s : State) : Host.Outcome State Fault Refusal :=
  transmit st 1 s.cfg.table.opDispctl .command s.cfg.timing.fastDelay .host s

/-- A shift of `count` positions (R93, R94): a count of zero writes no flag and emits nothing. -/
def shiftBy (display right : Bool) (count : Nat) (s : State) : Host.Outcome State Fault Refusal :=
  if count = 0 then .next (s.accept s.st [])
  else
    transmit (s.st.setShift display right) count s.cfg.table.opShift .command s.cfg.timing.fastDelay .host s

/-- One Command-mode `sendByte` of level M (R71). -/
def sendCommand (caller : Caller) (v : Byte) (s : State) : Host.Outcome State Fault Refusal :=
  transmit s.st 1 v .command (settleDelay s.cfg.timing caller.settle) caller.ctx s

/-- One write to the expander, with the transport's answer drawn from the free values of the instance's
identity (R30, R119; log 1). -/
def writeByte (b : Byte) (s : State) : Host.Outcome State Fault Refusal :=
  .next (s.emitWrite b (Config.transportAnswer s.cfg.identity s.draws))

/-- Complete the running operation with a result (R21, R60). -/
def complete (r : Result) (s : State) : Host.Outcome State Fault Refusal := .next (s.respond r)

end Sys2Proof.Machine
end

