-- ==== Sys2Proof/Machine/Commands.lean ====
section
/-! DEFINITION. The command bytes of level M: one Command-mode `sendByte` of the byte of each family
(R54, R71 to R74). The prelude is a check of the requests (R85), not of `sendByte`. -/

namespace Sys2Proof.Machine

/-- Set-DDRAM-address: admitted, nothing injected. -/
def execCmdDdram (caller : Caller) (address : BitVec 7) (s : State) : Host.Outcome State Fault Refusal :=
  sendCommand caller (ddramByte address) s

/-- Set-CGRAM-address: rejected from every context (R74). -/
def execCmdCgram (caller : Caller) (address : BitVec 6) (s : State) : Host.Outcome State Fault Refusal :=
  sendCommand caller (cgramByte address) s

/-- Function-set: admitted in init context only, nothing injected (R74, R108). -/
def execCmdFunc (caller : Caller) (dl n f : Bool) (x : BitVec 2) (s : State) :
    Host.Outcome State Fault Refusal :=
  sendCommand caller (funcByte dl n f x) s

/-- Cursor or display shift, with the two shift flags injected. -/
def execCmdShift (caller : Caller) (sc rl : Bool) (x : BitVec 2) (s : State) :
    Host.Outcome State Fault Refusal :=
  sendCommand caller (shiftByte sc rl x) s

/-- Display control, with `displayOn`, `cursorVisible` and `blinking` injected. -/
def execCmdDispctl (caller : Caller) (d c b : Bool) (s : State) : Host.Outcome State Fault Refusal :=
  sendCommand caller (dispctlByte d c b) s

/-- Entry mode set, with `cursorDirection` and `displayShiftOnWrite` injected. -/
def execCmdEntry (caller : Caller) (incr shift : Bool) (s : State) : Host.Outcome State Fault Refusal :=
  sendCommand caller (entryByte incr shift) s

/-- Clear, home and the two other values: admitted, nothing injected. -/
def execCmdOther (caller : Caller) (x : BitVec 2) (s : State) : Host.Outcome State Fault Refusal :=
  sendCommand caller (otherByte x) s

end Sys2Proof.Machine
end

