-- ==== Sys2Proof/Machine/Initialization.lean ====
section
/-! DEFINITION. The initialization sequence (42_initialization.md). -/

namespace Sys2Proof.Machine

/-- One of INIT's raw pulses: the high nibble of a function-set command with RegisterSelect 0 and the
flag's backlight bit, at the fast delay (R105, R107). -/
def rawPulse (cfg : Config) (st : ControlState) (v : Byte) : List Item :=
  items (pulse (hiByte st v .command) cfg.timing.fastDelay)

/-- One of INIT's full commands (R108). -/
def fullCommand (cfg : Config) (st : ControlState) (v : Byte) (d : Nat) : List Item :=
  items (sendTrace cfg.table st v .command d)

/-- The function-set command with the 8-bit flag (R105). -/
def funcEightBit (t : CommandTable) : Byte := t.opFunc ||| t.func8bit

/-- The function-set command with the 2-line flag (R105). -/
def funcTwoLine (t : CommandTable) : Byte := t.opFunc ||| t.func2line

/-- The whole sequence, each phase entered after the last event of the step that earns it (R105, R106). -/
def initItems (cfg : Config) (st : ControlState) : List Item :=
  [.emit (.configure cfg.identity.busSelector cfg.identity.sdaPin cfg.identity.sclPin cfg.identity.bitRate),
    .enter .busConfigured,
    .emit (.delay cfg.timing.powerOn)]
  ++ rawPulse cfg st (funcEightBit cfg.table)
  ++ [.enter .forcedEightBit, .emit (.delay cfg.timing.init1)]
  ++ rawPulse cfg st (funcEightBit cfg.table)
  ++ [.emit (.delay cfg.timing.init2)]
  ++ rawPulse cfg st (funcEightBit cfg.table)
  ++ rawPulse cfg st cfg.table.opFunc
  ++ [.enter .fourBitMode]
  ++ fullCommand cfg st cfg.table.opEntry cfg.timing.fastDelay
  ++ [.enter .entryConfigured]
  ++ fullCommand cfg st (funcTwoLine cfg.table) cfg.timing.fastDelay
  ++ [.enter .functionConfigured]
  ++ fullCommand cfg st cfg.table.opDispctl cfg.timing.fastDelay
  ++ [.enter .displayConfigured, .emit (.delay cfg.timing.preClear)]
  ++ fullCommand cfg st cfg.table.opClear cfg.timing.slowDelay
  ++ [.enter .cleared, .enter .ready]

/-- The guard of `sendByte` for the four full commands, in init context (R74, R108). It holds at the
default command table, so INIT is never an INVALID_ARGUMENT there (R105). -/
def initAdmitted (t : CommandTable) : Bool :=
  sendAdmitted t .command t.opEntry .init && sendAdmitted t .command (funcTwoLine t) .init
    && sendAdmitted t .command t.opDispctl .init && sendAdmitted t .command t.opClear .init

/-- INIT (R105, R110). -/
def execInit (s : State) : Host.Outcome State Fault Refusal :=
  if s.phase = .uninitialized then
    if initAdmitted s.cfg.table then
      .next (s.accept ControlState.defaults (initItems s.cfg ControlState.defaults))
    else raise .invalidArgument s
  else raise .sequencingViolation s

end Sys2Proof.Machine
end

