-- ==== Sys2Proof/Machine/Requests.lean ====
section
/-! DEFINITION. The requests of the Command Layer and SEND_BYTE (41_command_layer.md, R75). -/

namespace Sys2Proof.Machine

/-- CLEAR (R86): the slow delay, no flag written. -/
def execClear (s : State) : Host.Outcome State Fault Refusal :=
  prelude s (transmit s.st 1 s.cfg.table.opClear .command s.cfg.timing.slowDelay .host s)

/-- WRITE_CHAR (R87): one Data-mode byte. -/
def execWriteChar (ch : Byte) (s : State) : Host.Outcome State Fault Refusal :=
  prelude s (transmit s.st 1 ch .data s.cfg.timing.fastDelay .host s)

/-- SET_CURSOR (R88). -/
def execSetCursor (line column : Byte) (s : State) : Host.Outcome State Fault Refusal :=
  prelude s
    (if cursorInRange s.cfg.geometry line column then
      transmit s.st 1 (ddramCommand s.cfg.geometry line column) .command s.cfg.timing.fastDelay .host s
    else raise .invalidArgument s)

/-- SET_DISPLAY (R89). -/
def execSetDisplay (on : Bool) (s : State) : Host.Outcome State Fault Refusal :=
  prelude s (resendDisplayControl (s.st.setDisplay on) s)

/-- SET_BACKLIGHT (R90). -/
def execSetBacklight (on : Bool) (s : State) : Host.Outcome State Fault Refusal :=
  prelude s (resendDisplayControl (s.st.setBacklight on) s)

/-- SET_CURSOR_VISIBLE (R91). -/
def execSetCursorVisible (on : Bool) (s : State) : Host.Outcome State Fault Refusal :=
  prelude s (resendDisplayControl (s.st.setCursorVisible on) s)

/-- SET_BLINK (R92). -/
def execSetBlink (on : Bool) (s : State) : Host.Outcome State Fault Refusal :=
  prelude s (resendDisplayControl (s.st.setBlink on) s)

/-- SHIFT_DISPLAY (R93). -/
def execShiftDisplay (right : Bool) (count : Nat) (s : State) : Host.Outcome State Fault Refusal :=
  prelude s (shiftBy true right (countOperand s.cfg.countW count) s)

/-- SHIFT_CURSOR (R94). -/
def execShiftCursor (right : Bool) (count : Nat) (s : State) : Host.Outcome State Fault Refusal :=
  prelude s (shiftBy false right (countOperand s.cfg.countW count) s)

/-- SEND_BYTE (R75): no flag written, whatever the value. -/
def execSendByte (value : Byte) (mode : Mode) (settle : Settle) (s : State) :
    Host.Outcome State Fault Refusal :=
  prelude s (transmit s.st 1 value mode (settleDelay s.cfg.timing settle) .host s)

end Sys2Proof.Machine
end

