-- ==== Sys2Proof/Machine/Wire.lean ====
section
/-! DEFINITION. Level W and the response port: the two writes of a pulse (R50, R70) and the four result
codes (R60, R115). -/

namespace Sys2Proof.Machine

/-- The first write of a pulse: Enable set. -/
def execNibbleEnSet (data : Nibble) (backlight registerSelect : Bool) (s : State) :
    Host.Outcome State Fault Refusal :=
  writeByte (nibbleByte data backlight true registerSelect) s

/-- The second write of a pulse: Enable clear. -/
def execNibbleEnClr (data : Nibble) (backlight registerSelect : Bool) (s : State) :
    Host.Outcome State Fault Refusal :=
  writeByte (nibbleByte data backlight false registerSelect) s

/-- OK. -/
def execRspOk (s : State) : Host.Outcome State Fault Refusal := complete .ok s

/-- INVALID_ARGUMENT. -/
def execRspInvalidArgument (s : State) : Host.Outcome State Fault Refusal := complete .invalidArgument s

/-- TRANSPORT_FAILURE. -/
def execRspTransportFailure (s : State) : Host.Outcome State Fault Refusal := complete .transportFailure s

/-- SEQUENCING_VIOLATION. -/
def execRspSequencingViolation (s : State) : Host.Outcome State Fault Refusal :=
  complete .sequencingViolation s

end Sys2Proof.Machine
end

