-- ==== Sys2Proof/Machine/Dispatch.lean ====
section
/-! DEFINITION. One arm for each instruction. -/

namespace Sys2Proof.Machine

def exec (i : Instr) (s : State) : Host.Outcome State Fault Refusal :=
  match i with
  -- level H
  | .init => Sys2Proof.Machine.execInit s
  | .clear => Sys2Proof.Machine.execClear s
  | .writeChar ch => Sys2Proof.Machine.execWriteChar ch s
  | .setCursor line column => Sys2Proof.Machine.execSetCursor line column s
  | .setDisplay on => Sys2Proof.Machine.execSetDisplay on s
  | .setBacklight on => Sys2Proof.Machine.execSetBacklight on s
  | .setCursorVisible on => Sys2Proof.Machine.execSetCursorVisible on s
  | .setBlink on => Sys2Proof.Machine.execSetBlink on s
  | .shiftDisplay right count => Sys2Proof.Machine.execShiftDisplay right count s
  | .shiftCursor right count => Sys2Proof.Machine.execShiftCursor right count s
  | .sendByte value mode settle => Sys2Proof.Machine.execSendByte value mode settle s
  -- level M
  | .cmdDdram caller address => Sys2Proof.Machine.execCmdDdram caller address s
  | .cmdCgram caller address => Sys2Proof.Machine.execCmdCgram caller address s
  | .cmdFunc caller dl n f x => Sys2Proof.Machine.execCmdFunc caller dl n f x s
  | .cmdShift caller sc rl x => Sys2Proof.Machine.execCmdShift caller sc rl x s
  | .cmdDispctl caller d c b => Sys2Proof.Machine.execCmdDispctl caller d c b s
  | .cmdEntry caller incr shift => Sys2Proof.Machine.execCmdEntry caller incr shift s
  | .cmdOther caller x => Sys2Proof.Machine.execCmdOther caller x s
  -- level W
  | .nibbleEnSet data backlight rs => Sys2Proof.Machine.execNibbleEnSet data backlight rs s
  | .nibbleEnClr data backlight rs => Sys2Proof.Machine.execNibbleEnClr data backlight rs s
  -- the response port
  | .rspOk => Sys2Proof.Machine.execRspOk s
  | .rspInvalidArgument => Sys2Proof.Machine.execRspInvalidArgument s
  | .rspTransportFailure => Sys2Proof.Machine.execRspTransportFailure s
  | .rspSequencingViolation => Sys2Proof.Machine.execRspSequencingViolation s

end Sys2Proof.Machine
end

