-- ==== Sys2Proof/Machine/Sequencer.lean ====
section
/-! DEFINITION. What the engine does next (R21, R33, R40, R135, R151), and what a code that is no
instruction does. -/

namespace Sys2Proof.Machine

/-- The head event of the queue: a write is a nibble byte to run, the other two are only emitted. `s` is
the state with that entry taken away. -/
def emitHead (e : Event) (s : State) : Advance :=
  match e with
  | .write b => .run (.nib b) s
  | .delay n => .quiet (s.emit (.delay n))
  | .configure bus sda scl rate => .quiet (s.emit (.configure bus sda scl rate))

/-- A running operation's next step: complete it when nothing is left (R21, R119); advance the phase
(R106); wait while the collaborator does not return (R151); else emit the head event. R151 speaks of a write
and of a delay; that the bus configuration can fail to return too is the model's choice (DESIGN CHOICE,
log 9). -/
def advanceBusy (s : State) : Advance :=
  match s.queue with
  | [] => .run (.rsp (completion s.tf).code) s
  | .enter p :: q => .quiet ((s.setQueue q).enterPhase p)
  | .emit e :: q => if s.stalled then .quiet s else emitHead e (s.setQueue q)

/-- An idle block takes what stands at its input, and otherwise has no step of its own (R21, R33). A
request waits for no collaborator. A nibble byte standing here, which the spec has no run for, is written
at once, whatever `stalled` is (DESIGN CHOICE, log 9). -/
def advanceIdle (s : State) : Advance :=
  match s.input with
  | [] => .quiet s
  | c :: cs => .run c (s.setInput cs)

/-- The next action. Reset comes first, at any time (R135). -/
def advance (s : State) : Advance :=
  if s.resetIn then .quiet s.blockReset
  else if s.busy then advanceBusy s
  else advanceIdle s

/-- A code that is no instruction: a reserved request completes with INVALID_ARGUMENT (R61, R116); a
nibble byte with ReadWrite set has no meaning (R61). -/
def rejectCode (e : DecodeError) (s : State) : Host.Outcome State Fault Refusal :=
  match e with
  | .reservedOpcode _ => raise .invalidArgument s
  | .readWriteSet b => .fault (.readWriteBitSet b)

/-- A table word, presented to the block. -/
def State.loadTableWord (s : State) (nbits w : Nat) : State :=
  match codeOfTableWord nbits w with
  | none => s
  | some c => s.loadCode c

end Sys2Proof.Machine
end

