-- ==== Sys2Proof/Machine/Run.lean ====
section
/-! DEFINITION. Running one code: decode it, then run its instruction. -/

namespace Sys2Proof.Machine

/-- Decode and run. -/
def runCode (c : Code) (s : State) : Host.Outcome State Fault Refusal :=
  match decode c with
  | .ok i => exec i s
  | .error e => rejectCode e s

/-- Do the next action. -/
def perform (a : Advance) : Host.Outcome State Fault Refusal :=
  match a with
  | .quiet t => .next t
  | .run c t => runCode c t

end Sys2Proof.Machine
end

