-- ==== Sys2Proof/Machine/Step.lean ====
section
/-! DEFINITION. One step of the block. -/

namespace Sys2Proof.Machine

/-- One step: a reset, one entry of the running operation's queue, its completion, or the acceptance of
what stands at the input; and no change while the block is idle or waits for a collaborator. -/
def step (s : State) : Host.Outcome State Fault Refusal := perform (advance s)

/-- The opcode table's word, put where the next step takes its instruction: at the head of the input of
an idle block. -/
def State.withFetchWord (s : State) (nbits w : Nat) : State := s.loadTableWord nbits w

end Sys2Proof.Machine
end

