-- ==== Sys2Proof/Machine/Instances.lean ====
section
/-! DEFINITION. Several instances (R130, R148, D24): a list of independent blocks, of which the
environment picks the one that steps. Writes are atomic (R37), so the interleavings are the ones in which
the environment serialises them. The answers of the transport are free for each identity, so instances on
different bus and address pairs are answered independently (log 1, log 14). -/

namespace Sys2Proof.Machine

/-- The `k`-th instance takes a step; the others, and a `k` with no instance, are untouched. -/
def stepInstance (k : Nat) (blocks : List State) : Host.Outcome (List State) Fault Refusal :=
  match blocks[k]? with
  | none => .next blocks
  | some s =>
    match step s with
    | .next t => .next (blocks.set k t)
    | .fault r => .fault r
    | .refused r => .refused r

end Sys2Proof.Machine
end

