-- ==== Sys2Proof/Machine/Latch.lean ====
section
/-! DEFINITION. The reference model of what lies downstream (R44, R45): a function of a trace, outside
the block and outside its state (R24). Every write of the trace is taken as arriving at the expander; whether
one answered `fail` does is left open by the spec (DESIGN CHOICE, log 15). -/

namespace Sys2Proof.Machine

/-- The pairs (RS, nibble) the controller latches, on each fall of Enable; `p` is the byte before (R44).
Every write is taken as arriving (log 15). -/
def latched (p : Byte) : List Event → List (Bool × Nibble)
  | [] => []
  | .write b :: es =>
    if p.getLsbD 2 && !b.getLsbD 2 then (b.getLsbD 0, b.extractLsb' 4 4) :: latched b es
    else latched b es
  | .delay _ :: es => latched p es
  | .configure _ _ _ _ :: es => latched p es

/-- In 4-bit mode the latched nibbles make bytes two by two, the high one first (R44). One `sendByte`
carries one RegisterSelect; where the two nibbles of a pair differ in it, as a reset that cuts an operation
short can make them, the spec does not say which register is written, and the model takes the high nibble's
(DESIGN CHOICE, log 15). -/
def assembled : List (Bool × Nibble) → List (Bool × Byte)
  | (rs, hi) :: (_, lo) :: rest => (rs, hi ++ lo) :: assembled rest
  | [_] => []
  | [] => []

/-- The width in which the controller takes its bus (R44, R62). -/
inductive BusWidth where
  | eight
  | four
  deriving DecidableEq, Repr

/-- What the controller takes in: in 8-bit mode the high four bits of a command, the low four being
whatever the unconnected lines read; in 4-bit mode a whole byte (R44). -/
inductive Reception where
  | upper (registerSelect : Bool) (high : Nibble)
  | whole (registerSelect : Bool) (value : Byte)
  deriving DecidableEq, Repr

/-- A latched nibble that commits a controller in 8-bit mode to 4-bit mode: the high nibble of a
function-set command without the 8-bit flag (R62, R105; DEDUCED, log 15). -/
def commitsToFour (t : CommandTable) (p : Bool × Nibble) : Bool :=
  !p.1 && decide (family t (p.2 ++ 0#4) = .func) && decide ((p.2 ++ 0#4) &&& t.func8bit = 0#8)

/-- The controller's bus width after one more latched nibble. Nothing of R44 leads back to 8-bit mode. -/
def BusWidth.next (t : CommandTable) (p : Bool × Nibble) : BusWidth → BusWidth
  | .four => .four
  | .eight => if commitsToFour t p then .four else .eight

/-- The controller's bus width after latched nibbles. -/
def BusWidth.after (t : CommandTable) (w : BusWidth) (ps : List (Bool × Nibble)) : BusWidth :=
  ps.foldl (fun w p => w.next t p) w

/-- What a controller that starts in a bus width takes in from latched nibbles: one command for each until
the commit, bytes two by two after it (R44). -/
def receptions (t : CommandTable) : BusWidth → List (Bool × Nibble) → List Reception
  | .four, ps => (assembled ps).map fun p => .whole p.1 p.2
  | .eight, [] => []
  | .eight, p :: ps => .upper p.1 p.2 :: receptions t (BusWidth.next t p .eight) ps

/-- The bytes that a controller receives from a trace, when it is in 4-bit mode with no half byte pending,
Enable is clear before it, and every write of it reaches the expander. -/
def received (es : List Event) : List (Bool × Byte) := assembled (latched 0#8 es)

/-- The expander's lines after a trace: the last byte written, and nothing known before the first write
(R45, R136, U8). R45 and R128 say that each write sets the lines, R146 that a failed write may not reach
the expander: every write is taken as arriving here, so for the hardware this is a function of traces whose
writes are all answered `ok` (U2; DESIGN CHOICE, log 15). -/
def expanderLines (before : Option Byte) : List Event → Option Byte
  | [] => before
  | .write b :: es => expanderLines (some b) es
  | .delay _ :: es => expanderLines before es
  | .configure _ _ _ _ :: es => expanderLines before es

end Sys2Proof.Machine
end

