-- ==== Sys2Proof/Machine/Strings.lean ====
section
/-! DEFINITION. The pseudo-operation WRITE_STRING, which the host expands (R64, R95). -/

namespace Sys2Proof.Machine

/-- `WRITE_STRING "c0 … c(k-1)"`: one WRITE_CHAR request for each character, in order (R64). -/
def writeString (cs : List Byte) : List Code := cs.map fun c => encode (.writeChar c)

/-- The host's result of the expansion: the first response that is not OK, and OK when there is none
(R95). -/
def stringResult (rs : List RspCode) : RspCode := (rs.find? fun r => decide (r ≠ 0#2)).getD 0#2

end Sys2Proof.Machine
end

