-- ==== Sys2Proof/Safety.lean ====
section
/-! DEFINITION. The terms in which claims about the block are made: what a trace and a queue hold, the
conditions under which requests run, the written-out form of a transmission, and the invariant. -/

namespace Sys2Proof.Machine

/-! ### What a queue and a trace hold -/

/-- The event of a queue entry. -/
def Item.event? : Item → Option Event
  | .emit e => some e
  | .enter _ => none

/-- The phase a queue entry enters. -/
def Item.phase? : Item → Option Phase
  | .emit _ => none
  | .enter p => some p

/-- The byte of a write. -/
def Event.write? : Event → Option Byte
  | .write b => some b
  | .delay _ => none
  | .configure _ _ _ _ => none

/-- The length of a delay. -/
def Event.delay? : Event → Option Nat
  | .write _ => none
  | .delay n => some n
  | .configure _ _ _ _ => none

/-- The events still to be emitted, in order. -/
def queueEvents (q : List Item) : List Event := q.filterMap Item.event?

/-- The phases still to be entered, in order. -/
def queuePhases (q : List Item) : List Phase := q.filterMap Item.phase?

/-- The bytes written, in order. -/
def writes (es : List Event) : List Byte := es.filterMap Event.write?

/-- The delays requested, in order. -/
def delays (es : List Event) : List Nat := es.filterMap Event.delay?

/-- The bytes are the writes of enable pulses: two by two, the first with Enable set, the second the same
with Enable clear, ReadWrite clear in both (R50, R61, R70). -/
def pulseShaped : List Byte → Bool
  | [] => true
  | [_] => false
  | b :: c :: rest =>
    b.getLsbD 2 && !b.getLsbD 1 && decide (c = b &&& 0xFB#8) && pulseShaped rest

/-- The eight events of a full transmission, written out: high nibble, then low nibble, each with Enable
set and then clear, a settle delay after each write (R62, R71). -/
def transmission (hi lo : Nibble) (backlight rs : Bool) (d : Nat) : List Item :=
  [.emit (.write (nibbleByte hi backlight true rs)), .emit (.delay d),
   .emit (.write (nibbleByte hi backlight false rs)), .emit (.delay d),
   .emit (.write (nibbleByte lo backlight true rs)), .emit (.delay d),
   .emit (.write (nibbleByte lo backlight false rs)), .emit (.delay d)]

/-- The four events of the single-nibble form, written out (R62). -/
def singleNibble (data : Nibble) (backlight : Bool) (d : Nat) : List Item :=
  [.emit (.write (nibbleByte data backlight true false)), .emit (.delay d),
   .emit (.write (nibbleByte data backlight false false)), .emit (.delay d)]

/-- Writes of the bytes given, each with the delay `d` after it. -/
def waited (d : Nat) (bs : List Byte) : List Event := bs.flatMap fun b => [.write b, .delay d]

/-- INIT's trace at the default command table, written out from the worked example of R105. -/
def initTrace (c : Config) : List Event :=
  [.configure c.identity.busSelector c.identity.sdaPin c.identity.sclPin c.identity.bitRate,
    .delay c.timing.powerOn]
  ++ waited c.timing.fastDelay [0x3C#8, 0x38#8] ++ [.delay c.timing.init1]
  ++ waited c.timing.fastDelay [0x3C#8, 0x38#8] ++ [.delay c.timing.init2]
  ++ waited c.timing.fastDelay [0x3C#8, 0x38#8]
  ++ waited c.timing.fastDelay [0x2C#8, 0x28#8]
  ++ waited c.timing.fastDelay [0x0C#8, 0x08#8, 0x6C#8, 0x68#8]
  ++ waited c.timing.fastDelay [0x2C#8, 0x28#8, 0x8C#8, 0x88#8]
  ++ waited c.timing.fastDelay [0x0C#8, 0x08#8, 0xCC#8, 0xC8#8] ++ [.delay c.timing.preClear]
  ++ waited c.timing.slowDelay [0x0C#8, 0x08#8, 0x1C#8, 0x18#8]

/-! ### Conditions -/

/-- The sequencing condition of the ten operations other than INIT (R85, R126). -/
def Runnable (s : State) : Prop := s.cfg.strict = true → s.phase = .ready

/-- The command table and the geometry have the spec's default values (R5); the identity, the durations,
`STRICT_SEQUENCING` and `COUNT_W` are free. -/
def Tabled (c : Config) : Prop := c.table = CommandTable.hd44780 ∧ c.geometry = Geometry.lcd1602

/-- The block is idle, no reset is asserted, and the code `c` stands at its input before `cs`. -/
def Presented (s : State) (c : Code) (cs : List Code) : Prop :=
  s.busy = false ∧ s.resetIn = false ∧ s.input = c :: cs

/-- The state after `s` has presented the response `r`, at the rejection or the completion of an
operation: no flag, no phase and no trace changes (R121). -/
def responded (r : RspCode) (s : State) : State :=
  { s with rsp := r, busy := false, responses := s.responses ++ [r] }

/-- The state after `s` has accepted an operation that writes the flags `st` and has the queue `q`
(R21). -/
def accepted (st : ControlState) (q : List Item) (s : State) : State :=
  { s with st := st, busy := true, queue := q, tf := false }

/-- The ten operations of the Command Layer and SEND_BYTE: every request but INIT (R117). -/
def isCommandLayer : Instr → Bool
  | .clear => true
  | .writeChar _ => true
  | .setCursor _ _ => true
  | .setDisplay _ => true
  | .setBacklight _ => true
  | .setCursorVisible _ => true
  | .setBlink _ => true
  | .shiftDisplay _ _ => true
  | .shiftCursor _ _ => true
  | .sendByte _ _ _ => true
  | .init => false
  | .cmdDdram _ _ => false
  | .cmdCgram _ _ => false
  | .cmdFunc _ _ _ _ _ => false
  | .cmdShift _ _ _ _ => false
  | .cmdDispctl _ _ _ _ => false
  | .cmdEntry _ _ _ => false
  | .cmdOther _ _ => false
  | .nibbleEnSet _ _ _ => false
  | .nibbleEnClr _ _ _ => false
  | .rspOk => false
  | .rspInvalidArgument => false
  | .rspTransportFailure => false
  | .rspSequencingViolation => false

/-- A code that the block can run or reject: not a nibble byte with ReadWrite set. -/
def Code.legal : Code → Bool
  | .nib b => !b.getLsbD 1
  | .req _ => true
  | .cmd _ _ => true
  | .rsp _ => true

/-- Some answer among the `k` from the `n`-th on is `fail`. -/
def someFail (id : Identity) (n k : Nat) : Bool :=
  (List.range k).any fun j => decide (Config.transportAnswer id (n + j) = .fail)

/-! ### The phase machine (R20, R106) -/

/-- The phases that follow in the chain. -/
def Phase.rest : Phase → List Phase
  | .uninitialized =>
    [.busConfigured, .forcedEightBit, .fourBitMode, .entryConfigured, .functionConfigured,
      .displayConfigured, .cleared, .ready]
  | .busConfigured =>
    [.forcedEightBit, .fourBitMode, .entryConfigured, .functionConfigured, .displayConfigured, .cleared,
      .ready]
  | .forcedEightBit =>
    [.fourBitMode, .entryConfigured, .functionConfigured, .displayConfigured, .cleared, .ready]
  | .fourBitMode => [.entryConfigured, .functionConfigured, .displayConfigured, .cleared, .ready]
  | .entryConfigured => [.functionConfigured, .displayConfigured, .cleared, .ready]
  | .functionConfigured => [.displayConfigured, .cleared, .ready]
  | .displayConfigured => [.cleared, .ready]
  | .cleared => [.ready]
  | .ready => []

/-- The six durations the block ever requests (R127). -/
def Timing.durations (t : Timing) : List Nat :=
  [t.fastDelay, t.slowDelay, t.powerOn, t.init1, t.init2, t.preClear]

/-! ### The invariant -/

/-- What holds at reset and is kept by every step, at any parameters. -/
structure Inv (s : State) : Prop where
  /-- "When `busy = 0` the queue is empty" (R21). -/
  idle : s.busy = false → s.queue = []
  /-- The ReadWrite bit of a nibble byte to be written is 0 (R50, R61). -/
  wire : ∀ b ∈ writes (queueEvents s.queue), b.getLsbD 1 = false
  /-- The phases still to be entered are the rest of the chain; an operation that runs before INIT enters
  none (R20, R106). -/
  chain : queuePhases s.queue = s.phase.rest ∨ (s.phase = .uninitialized ∧ queuePhases s.queue = [])
  /-- Every delay to be requested is one of the six (R127). -/
  durations : ∀ n ∈ delays (queueEvents s.queue), n ∈ Timing.durations s.cfg.timing

/-- `n` steps, stopping at the first fault or refusal: `Host.Core.run` of this machine, at its own
types. -/
def runSteps : Nat → State → Host.Outcome State Fault Refusal
  | 0, s => .next s
  | n + 1, s =>
    match step s with
    | .next t => runSteps n t
    | .fault r => .fault r
    | .refused r => .refused r

/-- A safe run takes every step to a next state: the result codes stop nothing (R115). -/
def Safe (s : State) : Prop := ∃ t, step s = .next t

end Sys2Proof.Machine
end

