-- ==== Sys2Proof/Certificates/Slice0/Obligations.lean ====
section
/-! DEFINITION. The statements for the provers. Each docstring names the rules of spec/ it rests on. The
inputs `input`, `resetIn` and `stalled`, the outputs `trace` and `responses` and the counter `draws` are the
model's own ends of the block's channels (log 1, 6, 7, 9). -/

open Sys2Proof Sys2Proof.Machine

/-! ### Reset, the invariant, progress -/

/-- R135: the reset input, at any time, puts every element at its reset value, abandons a running
operation without a response, and changes no parameter; the block then waits for a request; and the
state after reset has those values. The same defaults are written when INIT is accepted. What the reset
input is after the step is left open. That `State.reset` has emitted and been presented nothing, and that a
reset leaves `input`, `stalled` and `draws`, fields the spec does not list, is the model's choice (log 16,
log 1). -/
def Obligations.ResetPutsEveryElementAtItsValue : Prop :=
  let flags : ControlState :=
    { cursorDirection := true, cursorVisible := false, displayShiftOnWrite := false, displayOn := true,
      blinking := false, backlightOn := true, shiftTargetIsDisplay := false, shiftDirectionRight := false }
  let after (s : State) (asserted : Bool) : State :=
    { s with
      st := flags, phase := .uninitialized, busy := false, queue := [], tf := false, rsp := 0#2,
      resetIn := asserted }
  (∀ s : State, s.resetIn = true → ∃ asserted : Bool, step s = .next (after s asserted)) ∧
  (∀ s : State, (after s false).ready = false ∧
    (s.input = [] → step (after s false) = .next (after s false))) ∧
  after State.reset false = State.reset ∧ State.reset.trace = [] ∧ State.reset.input = [] ∧
  (∀ s t : State, s.busy = false → exec .init s = .next t → t.busy = true → t.st = flags)

/-- The invariant holds at reset (R20, R21, R61, R127, R135). -/
def Obligations.InvHoldsAtReset : Prop := Inv State.reset

/-- Every step, at any parameters and with any input, keeps the invariant: an idle block has an empty
queue (R21), no byte to be written has ReadWrite set (R61), the phases to come are the rest of the chain
(R20, R106), every delay is one of the six (R127). -/
def Obligations.EveryStepKeepsTheInv : Prop :=
  ∀ s t : State, Inv s → step s = .next t → Inv t

/-- The block never stops: no result code is fatal, and nothing that the engine queues is without a
meaning (R61, R115, R122). A nibble byte with ReadWrite set, put at the input from outside, is what the
premise leaves out. -/
def Obligations.NoStepStopsTheBlock : Prop :=
  ∀ s : State, Inv s → (∀ c ∈ s.input, Code.legal c = true) → Safe s

/-- A step runs the decoded instruction: of what stands at the input of an idle block, of the write at the
head of a running operation's queue, and of the result code when the queue is empty (R21, R33, R119). R33
speaks of requests only: that a command byte, a nibble byte or a response code at the input runs as an
instruction of its own is the model's choice (log 7), and so is that a nibble byte there is written at once,
also when `stalled` is set (log 9). -/
def Obligations.StepRunsTheDecodedInstruction : Prop :=
  (∀ (s : State) (c : Code) (cs : List Code) (i : Instr),
    Presented s c cs → decode c = .ok i → step s = exec i { s with input := cs }) ∧
  (∀ (s : State) (b : Byte) (q : List Item) (i : Instr),
    s.resetIn = false → s.busy = true → s.stalled = false → s.queue = .emit (.write b) :: q →
    decode (.nib b) = .ok i → step s = exec i { s with queue := q }) ∧
  (∀ (s : State) (i : Instr),
    s.resetIn = false → s.busy = true → s.queue = [] →
    decode (.rsp (if s.tf then 2#2 else 0#2)) = .ok i → step s = exec i s)

/-! ### Encodings -/

/-- Decoding the code of a well-formed instruction gives it back, with every operand at every value
(R50, R54, R57 to R60, R63). -/
def Obligations.DecodeOfEncodeIsTheInstruction : Prop :=
  ∀ i : Instr, i.wellFormed = true → decode (encode i) = .ok i

/-- What is decoded is well formed, and a command byte, a nibble byte or a response code is the code of
the instruction it decodes to, so no bit of it is dropped (R50, R54, R60). A request word is, but for its
ignored bits (R59). -/
def Obligations.EncodeOfDecodedIsTheCode : Prop :=
  ∀ (c : Code) (i : Instr), decode c = .ok i →
    i.wellFormed = true ∧ ((∀ w : ReqWord, c ≠ .req w) → encode i = c) ∧ decode (encode i) = .ok i

/-- Words of R63 and of 95_test_vectors.md, and bytes written out from R54, R50 and R60. -/
def Obligations.SpecWordsDecode : Prop :=
  decode (.req 0x000000#24) = .ok .init ∧
  decode (.req 0x030105#24) = .ok (.setCursor 1#8 5#8) ∧
  decode (.req 0x0700FE#24) = .ok (.setBlink false) ∧
  decode (.req 0x080103#24) = .ok (.shiftDisplay true 3) ∧
  decode (.req 0x0A0202#24) = .ok (.sendByte 0x02#8 .command .slow) ∧
  decode (.cmd 0xC5#8 ⟨.fast, .host⟩) = .ok (.cmdDdram ⟨.fast, .host⟩ 0x45#7) ∧
  decode (.cmd 0x0C#8 ⟨.fast, .host⟩) = .ok (.cmdDispctl ⟨.fast, .host⟩ true false false) ∧
  decode (.nib 0xCC#8) = .ok (.nibbleEnSet 0xC#4 true false) ∧
  decode (.nib 0x49#8) = .ok (.nibbleEnClr 0x4#4 true true) ∧
  decode (.rsp 2#2) = .ok .rspTransportFailure

/-- R58 and R59: the opcode in bits 23 to 16, the operands in fields `A` and `B`, a boolean in bit 0 of
its field, every other bit ignored, and the opcodes from 0x0B reserved. -/
def Obligations.RequestWordsDecodeAsTabled : Prop :=
  (∀ a b : Byte,
    decode (.req (0x00#8 ++ a ++ b)) = .ok .init ∧
    decode (.req (0x01#8 ++ a ++ b)) = .ok .clear ∧
    decode (.req (0x02#8 ++ a ++ b)) = .ok (.writeChar b) ∧
    decode (.req (0x03#8 ++ a ++ b)) = .ok (.setCursor a b) ∧
    decode (.req (0x04#8 ++ a ++ b)) = .ok (.setDisplay (b.getLsbD 0)) ∧
    decode (.req (0x05#8 ++ a ++ b)) = .ok (.setBacklight (b.getLsbD 0)) ∧
    decode (.req (0x06#8 ++ a ++ b)) = .ok (.setCursorVisible (b.getLsbD 0)) ∧
    decode (.req (0x07#8 ++ a ++ b)) = .ok (.setBlink (b.getLsbD 0)) ∧
    decode (.req (0x08#8 ++ a ++ b)) = .ok (.shiftDisplay (a.getLsbD 0) b.toNat) ∧
    decode (.req (0x09#8 ++ a ++ b)) = .ok (.shiftCursor (a.getLsbD 0) b.toNat) ∧
    decode (.req (0x0A#8 ++ a ++ b)) =
      .ok (.sendByte b (if a.getLsbD 0 then .data else .command) (if a.getLsbD 1 then .slow else .fast))) ∧
  (∀ op a b : Byte, 0x0B ≤ op.toNat → decode (.req (op ++ a ++ b)) = .error (.reservedOpcode op)) ∧
  (∀ tm : Timing, settleDelay tm .fast = tm.fastDelay ∧ settleDelay tm .slow = tm.slowDelay)

/-- R53: the family of every command byte, by its match and mask and by its range of values; the two
values named in OTHER, whose four values are treated alike. -/
def Obligations.FamiliesAreTheTable : Prop :=
  (∀ v : Byte,
    (family CommandTable.hd44780 v = .ddram ↔ v &&& 0x80#8 = 0x80#8) ∧
    (family CommandTable.hd44780 v = .cgram ↔ v &&& 0xC0#8 = 0x40#8) ∧
    (family CommandTable.hd44780 v = .func ↔ v &&& 0xE0#8 = 0x20#8) ∧
    (family CommandTable.hd44780 v = .shift ↔ v &&& 0xF0#8 = 0x10#8) ∧
    (family CommandTable.hd44780 v = .dispctl ↔ v &&& 0xF8#8 = 0x08#8) ∧
    (family CommandTable.hd44780 v = .entry ↔ v &&& 0xFC#8 = 0x04#8) ∧
    (family CommandTable.hd44780 v = .other ↔ v &&& 0xFC#8 = 0x00#8) ∧
    (family CommandTable.hd44780 v = .ddram ↔ 0x80 ≤ v.toNat) ∧
    (family CommandTable.hd44780 v = .cgram ↔ 0x40 ≤ v.toNat ∧ v.toNat ≤ 0x7F) ∧
    (family CommandTable.hd44780 v = .func ↔ 0x20 ≤ v.toNat ∧ v.toNat ≤ 0x3F) ∧
    (family CommandTable.hd44780 v = .shift ↔ 0x10 ≤ v.toNat ∧ v.toNat ≤ 0x1F) ∧
    (family CommandTable.hd44780 v = .dispctl ↔ 0x08 ≤ v.toNat ∧ v.toNat ≤ 0x0F) ∧
    (family CommandTable.hd44780 v = .entry ↔ 0x04 ≤ v.toNat ∧ v.toNat ≤ 0x07) ∧
    (family CommandTable.hd44780 v = .other ↔ v.toNat ≤ 0x03)) ∧
  CommandTable.hd44780.opClear = 0x01#8 ∧ CommandTable.hd44780.opHome = 0x02#8 ∧
  (∀ (st : ControlState) (v : Byte) (ctx : Context), v.toNat ≤ 0x03 →
    inject CommandTable.hd44780 st v = 0#4 ∧ admitted (family CommandTable.hd44780 v) ctx = true)

/-! ### The transmission engine -/

/-- R51 and R52: the control bits, the Enable mask, the nibble byte made of a data nibble and them, and
the nibble split. -/
def Obligations.ControlBitsAndNibbleSplit : Prop :=
  (ctl .command false = 0x00#8 ∧ ctl .data false = 0x01#8 ∧ ctl .command true = 0x08#8 ∧
    ctl .data true = 0x09#8 ∧ enableMask = 0x04#8) ∧
  (∀ (d : Nibble) (m : Mode) (bl : Bool),
    nibbleByte d bl false (isData m) = (d.setWidth 8 <<< 4) ||| ctl m bl ∧
    nibbleByte d bl true (isData m) = nibbleByte d bl false (isData m) ||| 0x04#8) ∧
  (∀ hi lo : Nibble, hiData (hi ++ lo) = hi ++ 0#4 ∧ loData (hi ++ lo) = lo ++ 0#4)

/-- R70: an enable pulse writes the nibble byte with Enable set and then with Enable clear, with the
settle delay after each write. -/
def Obligations.PulseSetsThenClearsEnable : Prop :=
  ∀ (data : Nibble) (bl rs : Bool) (d : Nat),
    pulse (nibbleByte data bl false rs) d =
      [.write (nibbleByte data bl true rs), .delay d, .write (nibbleByte data bl false rs), .delay d]

/-- R73 (with the positions of R56): what each family injects, and that it is ORed into the data bits of
the low nibble byte, in Command mode only. -/
def Obligations.ShadowBitsGoIntoTheLowNibble : Prop :=
  (∀ (st : ControlState) (v : Byte),
    (0x20 ≤ v.toNat ∨ v.toNat ≤ 0x03 → inject CommandTable.hd44780 st v = 0#4) ∧
    (0x10 ≤ v.toNat → v.toNat ≤ 0x1F →
      inject CommandTable.hd44780 st v =
        BitVec.ofBool st.shiftTargetIsDisplay ++ BitVec.ofBool st.shiftDirectionRight ++ 0#2) ∧
    (0x08 ≤ v.toNat → v.toNat ≤ 0x0F →
      inject CommandTable.hd44780 st v =
        0#1 ++ BitVec.ofBool st.displayOn ++ BitVec.ofBool st.cursorVisible ++ BitVec.ofBool st.blinking) ∧
    (0x04 ≤ v.toNat → v.toNat ≤ 0x07 →
      inject CommandTable.hd44780 st v =
        0#2 ++ BitVec.ofBool st.cursorDirection ++ BitVec.ofBool st.displayShiftOnWrite)) ∧
  (∀ (st : ControlState) (hi lo : Nibble) (d : Nat),
    items (sendTrace CommandTable.hd44780 st (hi ++ lo) .command d) =
      transmission hi (lo ||| inject CommandTable.hd44780 st (hi ++ lo)) st.backlightOn false d ∧
    items (sendTrace CommandTable.hd44780 st (hi ++ lo) .data d) =
      transmission hi lo st.backlightOn true d)

/-- R74: the guard. In Command mode CGRAM is rejected from every context, function-set from the host
only, every other family is admitted; a rejected command presents INVALID_ARGUMENT and changes nothing;
in Data mode nothing is rejected. -/
def Obligations.FamilyGuardRejectsOrSends : Prop :=
  (∀ (s : State) (v : Byte) (caller : Caller), Tabled s.cfg →
    (0x40 ≤ v.toNat ∧ v.toNat ≤ 0x7F ∨ 0x20 ≤ v.toNat ∧ v.toNat ≤ 0x3F ∧ caller.ctx = .host →
      exec (decodeCommand caller v) s = .next (responded 1#2 s)) ∧
    (¬(0x40 ≤ v.toNat ∧ v.toNat ≤ 0x7F ∨ 0x20 ≤ v.toNat ∧ v.toNat ≤ 0x3F ∧ caller.ctx = .host) →
      ∃ q, exec (decodeCommand caller v) s = .next (accepted s.st q s) ∧ (queueEvents q).length = 8)) ∧
  (∀ (s : State) (v : Byte) (x : Settle), Tabled s.cfg → Runnable s →
    (0x20 ≤ v.toNat ∧ v.toNat ≤ 0x7F → exec (.sendByte v .command x) s = .next (responded 1#2 s)) ∧
    ∃ q, exec (.sendByte v .data x) s = .next (accepted s.st q s) ∧ (queueEvents q).length = 8)

/-- R77, of a controller in 4-bit mode with no half byte pending (R44): the controller reassembles, from
the two nibbles it latches, the value with the shadow bits ORed in; a bare family opcode becomes the opcode
with the current flags; a family with no injection is sent as it is; and (R78) a Data-mode value is sent as
it is. That every write arrives is the model's choice (log 15). -/
def Obligations.ControllerReassemblesTheEffectiveByte : Prop :=
  (∀ (t : CommandTable) (st : ControlState) (v : Byte) (d : Nat),
    received (sendTrace t st v .command d) = [(false, v ||| (inject t st v).setWidth 8)] ∧
    received (sendTrace t st v .command d) = [(false, eff t st v)] ∧
    received (sendTrace t st v .data d) = [(true, v)]) ∧
  (∀ st : ControlState,
    eff CommandTable.hd44780 st 0x10#8 =
      shiftByte st.shiftTargetIsDisplay st.shiftDirectionRight 0#2 ∧
    eff CommandTable.hd44780 st 0x08#8 = dispctlByte st.displayOn st.cursorVisible st.blinking ∧
    eff CommandTable.hd44780 st 0x04#8 = entryByte st.cursorDirection st.displayShiftOnWrite) ∧
  (∀ (st : ControlState) (v : Byte), 0x20 ≤ v.toNat ∨ v.toNat ≤ 0x03 → eff CommandTable.hd44780 st v = v)

/-! ### The requests: results and frames -/

/-- CLEAR (R86) when it may run: Clear-Display with the slow delay; nothing else changes. -/
def Obligations.ClearSendsClearWithTheSlowDelay : Prop :=
  ∀ s : State, Tabled s.cfg → Runnable s →
    exec .clear s =
      .next (accepted s.st (transmission 0x0#4 0x1#4 s.st.backlightOn false s.cfg.timing.slowDelay) s)

/-- WRITE_CHAR (R87) when it may run: the character in Data mode with the fast delay; nothing else
changes. -/
def Obligations.WriteCharSendsTheCharacter : Prop :=
  ∀ (hi lo : Nibble) (s : State), Runnable s →
    exec (.writeChar (hi ++ lo)) s =
      .next (accepted s.st (transmission hi lo s.st.backlightOn true s.cfg.timing.fastDelay) s)

/-- SET_CURSOR (R88) when it may run: the DDRAM address of an in-range position; INVALID_ARGUMENT and no
other change out of range. -/
def Obligations.SetCursorSendsTheAddressOrRejects : Prop :=
  ∀ (line column : Byte) (s : State), Tabled s.cfg → Runnable s →
    (line.toNat ≤ 1 ∧ column.toNat ≤ 15 →
      exec (.setCursor line column) s =
        .next (accepted s.st
          (transmission (if line = 0#8 then 0x8#4 else 0xC#4) (column.setWidth 4) s.st.backlightOn false
            s.cfg.timing.fastDelay) s)) ∧
    (1 < line.toNat ∨ 15 < column.toNat →
      exec (.setCursor line column) s = .next (responded 1#2 s))

/-- SET_DISPLAY (R89) when it may run: `displayOn` takes the operand, no other flag changes, and the
display-control command is sent with all three of its flags. -/
def Obligations.SetDisplayWritesAndResends : Prop :=
  ∀ (on : Bool) (s : State), Tabled s.cfg → Runnable s →
    exec (.setDisplay on) s =
      .next (accepted { s.st with displayOn := on }
        (transmission 0x0#4
          (1#1 ++ BitVec.ofBool on ++ BitVec.ofBool s.st.cursorVisible ++ BitVec.ofBool s.st.blinking)
          s.st.backlightOn false s.cfg.timing.fastDelay) s)

/-- SET_BACKLIGHT (R90, R145) when it may run: `backlightOn` and `displayOn` both take the operand, no
other flag changes, and all four bytes carry the new backlight bit. -/
def Obligations.SetBacklightWritesBothAndResends : Prop :=
  ∀ (on : Bool) (s : State), Tabled s.cfg → Runnable s →
    exec (.setBacklight on) s =
      .next (accepted { s.st with backlightOn := on, displayOn := on }
        (transmission 0x0#4
          (1#1 ++ BitVec.ofBool on ++ BitVec.ofBool s.st.cursorVisible ++ BitVec.ofBool s.st.blinking)
          on false s.cfg.timing.fastDelay) s)

/-- SET_CURSOR_VISIBLE (R91) when it may run: `cursorVisible` takes the operand, no other flag changes. -/
def Obligations.SetCursorVisibleWritesAndResends : Prop :=
  ∀ (on : Bool) (s : State), Tabled s.cfg → Runnable s →
    exec (.setCursorVisible on) s =
      .next (accepted { s.st with cursorVisible := on }
        (transmission 0x0#4
          (1#1 ++ BitVec.ofBool s.st.displayOn ++ BitVec.ofBool on ++ BitVec.ofBool s.st.blinking)
          s.st.backlightOn false s.cfg.timing.fastDelay) s)

/-- SET_BLINK (R92) when it may run: `blinking` takes the operand, no other flag changes. -/
def Obligations.SetBlinkWritesAndResends : Prop :=
  ∀ (on : Bool) (s : State), Tabled s.cfg → Runnable s →
    exec (.setBlink on) s =
      .next (accepted { s.st with blinking := on }
        (transmission 0x0#4
          (1#1 ++ BitVec.ofBool s.st.displayOn ++ BitVec.ofBool s.st.cursorVisible ++ BitVec.ofBool on)
          s.st.backlightOn false s.cfg.timing.fastDelay) s)

/-- SHIFT_DISPLAY (R93) when it may run: with a count above zero the two shift flags are written and the
same command is sent `count` times; with a count of zero no flag is written and nothing is emitted. That a
count of zero completes by a step of its own is the model's reading (log 10), and that a count wider than
`COUNT_W` is taken by its low bits is the model's choice (log 5). -/
def Obligations.ShiftDisplaySendsCountCommands : Prop :=
  (∀ (right : Bool) (count : Nat) (s : State), Tabled s.cfg → Runnable s → count < 2 ^ s.cfg.countW →
    (0 < count →
      exec (.shiftDisplay right count) s =
        .next (accepted { s.st with shiftTargetIsDisplay := true, shiftDirectionRight := right }
          (List.replicate count
            (transmission 0x1#4 (1#1 ++ BitVec.ofBool right ++ 0#2) s.st.backlightOn false
              s.cfg.timing.fastDelay)).flatten s)) ∧
    exec (.shiftDisplay right 0) s = .next (accepted s.st [] s)) ∧
  (∀ (right : Bool) (count : Nat) (s : State),
    exec (.shiftDisplay right count) s = exec (.shiftDisplay right (count % 2 ^ s.cfg.countW)) s)

/-- SHIFT_CURSOR (R94) when it may run: as SHIFT_DISPLAY, with `shiftTargetIsDisplay` written 0 (log 10
for a count of zero, log 5 for one wider than `COUNT_W`). -/
def Obligations.ShiftCursorSendsCountCommands : Prop :=
  (∀ (right : Bool) (count : Nat) (s : State), Tabled s.cfg → Runnable s → count < 2 ^ s.cfg.countW →
    (0 < count →
      exec (.shiftCursor right count) s =
        .next (accepted { s.st with shiftTargetIsDisplay := false, shiftDirectionRight := right }
          (List.replicate count
            (transmission 0x1#4 (0#1 ++ BitVec.ofBool right ++ 0#2) s.st.backlightOn false
              s.cfg.timing.fastDelay)).flatten s)) ∧
    exec (.shiftCursor right 0) s = .next (accepted s.st [] s)) ∧
  (∀ (right : Bool) (count : Nat) (s : State),
    exec (.shiftCursor right count) s = exec (.shiftCursor right (count % 2 ^ s.cfg.countW)) s)

/-- SEND_BYTE (R75) when it may run: no flag is written whatever the value; a Command value is sent with
the shadow bits of its family, or rejected when its family is CGRAM or function-set; a Data value is sent
as it is; the `slow` operand selects the delay. -/
def Obligations.SendByteSendsTheValueOrRejects : Prop :=
  ∀ (hi lo : Nibble) (x : Settle) (s : State), Tabled s.cfg → Runnable s →
    let d := match x with
      | .fast => s.cfg.timing.fastDelay
      | .slow => s.cfg.timing.slowDelay
    (hi.toNat < 2 ∨ 8 ≤ hi.toNat →
      exec (.sendByte (hi ++ lo) .command x) s =
        .next (accepted s.st
          (transmission hi (lo ||| inject CommandTable.hd44780 s.st (hi ++ lo)) s.st.backlightOn false d)
          s)) ∧
    (2 ≤ hi.toNat ∧ hi.toNat < 8 →
      exec (.sendByte (hi ++ lo) .command x) s = .next (responded 1#2 s)) ∧
    exec (.sendByte (hi ++ lo) .data x) s =
      .next (accepted s.st (transmission hi lo s.st.backlightOn true d) s)

/-- INIT (R105, R106) from `Uninitialized`: all eight flags take their defaults, and the queue is the
whole sequence, with each phase entered after the last event of the step that earns it. -/
def Obligations.InitQueuesTheSequence : Prop :=
  ∀ s : State, Tabled s.cfg → s.phase = .uninitialized →
    exec .init s =
      .next (accepted ControlState.defaults
        ([.emit (.configure s.cfg.identity.busSelector s.cfg.identity.sdaPin s.cfg.identity.sclPin
            s.cfg.identity.bitRate),
          .enter .busConfigured, .emit (.delay s.cfg.timing.powerOn)]
          ++ singleNibble 0x3#4 true s.cfg.timing.fastDelay
          ++ [.enter .forcedEightBit, .emit (.delay s.cfg.timing.init1)]
          ++ singleNibble 0x3#4 true s.cfg.timing.fastDelay
          ++ [.emit (.delay s.cfg.timing.init2)]
          ++ singleNibble 0x3#4 true s.cfg.timing.fastDelay
          ++ singleNibble 0x2#4 true s.cfg.timing.fastDelay
          ++ [.enter .fourBitMode]
          ++ transmission 0x0#4 0x6#4 true false s.cfg.timing.fastDelay
          ++ [.enter .entryConfigured]
          ++ transmission 0x2#4 0x8#4 true false s.cfg.timing.fastDelay
          ++ [.enter .functionConfigured]
          ++ transmission 0x0#4 0xC#4 true false s.cfg.timing.fastDelay
          ++ [.enter .displayConfigured, .emit (.delay s.cfg.timing.preClear)]
          ++ transmission 0x0#4 0x1#4 true false s.cfg.timing.slowDelay
          ++ [.enter .cleared, .enter .ready]) s)

/-! ### Command bytes, nibble bytes, result codes -/

/-- The command bytes of the families with no injection, when admitted (R54, R73, R74): set-DDRAM-address
and OTHER from any caller, function-set in init context. -/
def Obligations.UninjectedCommandsAreSentAsGiven : Prop :=
  ∀ (x : Settle) (ctx : Context) (s : State), Tabled s.cfg →
    (∀ (a : BitVec 3) (lo : Nibble),
      exec (.cmdDdram ⟨x, ctx⟩ (a ++ lo)) s =
        .next (accepted s.st
          (transmission (1#1 ++ a) lo s.st.backlightOn false (settleDelay s.cfg.timing x)) s)) ∧
    (∀ y : BitVec 2,
      exec (.cmdOther ⟨x, ctx⟩ y) s =
        .next (accepted s.st
          (transmission 0x0#4 (0#2 ++ y) s.st.backlightOn false (settleDelay s.cfg.timing x)) s)) ∧
    (∀ (dl n f : Bool) (y : BitVec 2),
      exec (.cmdFunc ⟨x, .init⟩ dl n f y) s =
        .next (accepted s.st
          (transmission (0b001#3 ++ BitVec.ofBool dl) (BitVec.ofBool n ++ BitVec.ofBool f ++ y)
            s.st.backlightOn false (settleDelay s.cfg.timing x)) s))

/-- The command bytes of the shadowed families (R54, R73): each given parameter bit is ORed with its
flag. -/
def Obligations.ShadowedCommandsCarryTheFlags : Prop :=
  ∀ (x : Settle) (ctx : Context) (s : State), Tabled s.cfg →
    (∀ (sc rl : Bool) (y : BitVec 2),
      exec (.cmdShift ⟨x, ctx⟩ sc rl y) s =
        .next (accepted s.st
          (transmission 0x1#4
            (BitVec.ofBool (sc || s.st.shiftTargetIsDisplay)
              ++ BitVec.ofBool (rl || s.st.shiftDirectionRight) ++ y)
            s.st.backlightOn false (settleDelay s.cfg.timing x)) s)) ∧
    (∀ d c b : Bool,
      exec (.cmdDispctl ⟨x, ctx⟩ d c b) s =
        .next (accepted s.st
          (transmission 0x0#4
            (1#1 ++ BitVec.ofBool (d || s.st.displayOn) ++ BitVec.ofBool (c || s.st.cursorVisible)
              ++ BitVec.ofBool (b || s.st.blinking))
            s.st.backlightOn false (settleDelay s.cfg.timing x)) s)) ∧
    (∀ i sh : Bool,
      exec (.cmdEntry ⟨x, ctx⟩ i sh) s =
        .next (accepted s.st
          (transmission 0x0#4
            (0b01#2 ++ BitVec.ofBool (i || s.st.cursorDirection)
              ++ BitVec.ofBool (sh || s.st.displayShiftOnWrite))
            s.st.backlightOn false (settleDelay s.cfg.timing x)) s))

/-- The command bytes that are rejected (R74): set-CGRAM-address from any caller, function-set from the
host. The spec gives a CGRAM command no other effect. -/
def Obligations.UnsupportedCommandsAreRejected : Prop :=
  ∀ (x : Settle) (ctx : Context) (s : State), Tabled s.cfg →
    (∀ a : BitVec 6, exec (.cmdCgram ⟨x, ctx⟩ a) s = .next (responded 1#2 s)) ∧
    (∀ (dl n f : Bool) (y : BitVec 2),
      exec (.cmdFunc ⟨x, .host⟩ dl n f y) s = .next (responded 1#2 s))

/-- The two nibble bytes (R50, R30): one write, Enable set or clear, ReadWrite 0; the answer of the
transport, whatever it is, goes into `tf` and nowhere else (R23). -/
def Obligations.NibbleBytesAreWrittenOnce : Prop :=
  ∀ (data : Nibble) (bl rs : Bool) (s : State),
    exec (.nibbleEnSet data bl rs) s =
      .next { s with
        trace := s.trace ++ [.write (data ++ BitVec.ofBool bl ++ 1#1 ++ 0#1 ++ BitVec.ofBool rs)]
        tf := s.tf || decide (Config.transportAnswer s.cfg.identity s.draws = .fail)
        draws := s.draws + 1 } ∧
    exec (.nibbleEnClr data bl rs) s =
      .next { s with
        trace := s.trace ++ [.write (data ++ BitVec.ofBool bl ++ 0#1 ++ 0#1 ++ BitVec.ofBool rs)]
        tf := s.tf || decide (Config.transportAnswer s.cfg.identity s.draws = .fail)
        draws := s.draws + 1 }

/-- The four result codes (R60, R115): each is presented, held in `rsp`, and leaves the flags, the phase
and the trace alone; the block is idle after it. -/
def Obligations.ResultCodesArePresented : Prop :=
  ∀ s : State,
    exec .rspOk s = .next { s with rsp := 0#2, busy := false, responses := s.responses ++ [0#2] } ∧
    exec .rspInvalidArgument s =
      .next { s with rsp := 1#2, busy := false, responses := s.responses ++ [1#2] } ∧
    exec .rspTransportFailure s =
      .next { s with rsp := 2#2, busy := false, responses := s.responses ++ [2#2] } ∧
    exec .rspSequencingViolation s =
      .next { s with rsp := 3#2, busy := false, responses := s.responses ++ [3#2] }

/-! ### Results and guards -/

/-- R120 (with R116, R117 and R121): the order of checks, for every request word presented to an idle
block. A rejected request presents its code and changes nothing else; one that passes runs, with no
response yet, and at completion `tf` decides. That a shift with a count of zero, too, is accepted with no
response yet is the model's reading of R21 (log 10). -/
def Obligations.RequestsAreCheckedInOrder : Prop :=
  (∀ (s : State) (w : ReqWord) (cs : List Code), Presented s (.req w) cs → Tabled s.cfg →
    let op := (w.extractLsb' 16 8).toNat
    let a : Byte := w.extractLsb' 8 8
    let b : Byte := w.extractLsb' 0 8
    let u : State := { s with input := cs }
    if 0x0B ≤ op then step s = .next (responded 1#2 u)
    else if (op = 0x00 ∧ s.phase ≠ .uninitialized) ∨
        (op ≠ 0x00 ∧ s.cfg.strict = true ∧ s.phase ≠ .ready) then
      step s = .next (responded 3#2 u)
    else if (op = 0x03 ∧ (1 < a.toNat ∨ 15 < b.toNat)) ∨
        (op = 0x0A ∧ a.getLsbD 0 = false ∧ 0x20 ≤ b.toNat ∧ b.toNat ≤ 0x7F) then
      step s = .next (responded 1#2 u)
    else ∃ (st : ControlState) (q : List Item), step s = .next (accepted st q u)) ∧
  (∀ s : State, s.resetIn = false → s.busy = true → s.queue = [] →
    step s = .next (responded (if s.tf then 2#2 else 0#2) s))

/-- R110 and R117: each of the ten operations is a SEQUENCING_VIOLATION outside `Ready` when sequencing
is strict, and INIT is one outside `Uninitialized` whatever `STRICT_SEQUENCING` is; nothing else changes.
From `Uninitialized` INIT is accepted, and the ten are not rejected so when not strict. -/
def Obligations.SequencingIsChecked : Prop :=
  (∀ (i : Instr) (s : State), isCommandLayer i = true → s.cfg.strict = true → s.phase ≠ .ready →
    exec i s = .next (responded 3#2 s)) ∧
  (∀ s : State, s.phase ≠ .uninitialized → exec .init s = .next (responded 3#2 s)) ∧
  (∀ s : State, Tabled s.cfg → s.phase = .uninitialized →
    ∃ q, exec .init s = .next (accepted ControlState.defaults q s)) ∧
  (∀ (i : Instr) (s : State), isCommandLayer i = true → Runnable s →
    exec i s ≠ .next (responded 3#2 s))

/-- R119: a failed write sets `tf` and does nothing else; the result is TRANSPORT_FAILURE or OK by `tf`
at completion. -/
def Obligations.FailedWriteOnlySetsTf : Prop :=
  (∀ (s : State) (b : Byte) (q : List Item),
    s.resetIn = false → s.busy = true → s.stalled = false → s.queue = .emit (.write b) :: q →
    b.getLsbD 1 = false →
    step s = .next { s with
      queue := q
      trace := s.trace ++ [.write b]
      tf := if Config.transportAnswer s.cfg.identity s.draws = .fail then true else s.tf
      draws := s.draws + 1 }) ∧
  (∀ s : State, s.resetIn = false → s.busy = true → s.queue = [] →
    step s = .next (responded (if s.tf then 2#2 else 0#2) s))

/-- The transport's answers never show but in `tf`, and through it in the result (R119): two states that
differ only in `tf` and in the answers to come take steps to states that differ only in those, in `rsp` and
in the responses presented. -/
def Obligations.TransportAnswersShowOnlyInTheResult : Prop :=
  ∀ (s t : State) (f : Bool) (n : Nat), step s = .next t →
    ∃ t' : State, step { s with tf := f, draws := n } = .next t' ∧
      { t' with tf := t.tf, draws := t.draws, rsp := t.rsp, responses := t.responses } = t ∧
      t'.responses.length = t.responses.length

/-! ### Runs -/

/-- An operation runs to completion (R21, R40, R42, R119): from any state of a running operation, with no
reset and collaborators that return, the steps emit its whole queue in order, enter its phases in order,
and present exactly one response, which is TRANSPORT_FAILURE exactly when some write was answered `fail`;
the flags and the requests held at the port do not change. The number of steps is the model's choice: one
for each entry of the queue, phase changes included, and one for the response (log 11). -/
def Obligations.OperationsRunToCompletion : Prop :=
  ∀ s : State, s.resetIn = false → s.stalled = false → s.busy = true →
    (∀ b ∈ writes (queueEvents s.queue), b.getLsbD 1 = false) →
    ∃ t : State, runSteps (s.queue.length + 1) s = .next t ∧
      t.trace = s.trace ++ queueEvents s.queue ∧
      t.queue = [] ∧ t.busy = false ∧
      t.phase = (queuePhases s.queue).getLastD s.phase ∧
      (t.tf = true ↔ s.tf = true ∨
        ∃ k, k < (writes (queueEvents s.queue)).length ∧ Config.transportAnswer s.cfg.identity (s.draws + k) = .fail) ∧
      t.rsp = (if t.tf then 2#2 else 0#2) ∧
      t.responses = s.responses ++ [t.rsp] ∧
      t.draws = s.draws + (writes (queueEvents s.queue)).length ∧
      t.st = s.st ∧ t.cfg = s.cfg ∧ t.input = s.input ∧ t.resetIn = false ∧ t.stalled = false

/-- R105: INIT from its request to its response. From `Uninitialized`, with no reset and collaborators that
return, the whole trace of R105 is emitted, the flags end at their defaults and the phase at `Ready`,
whatever the transport answers; the result is TRANSPORT_FAILURE when some write was answered `fail` and OK
otherwise. From any other phase the result is SEQUENCING_VIOLATION and nothing else changes. The number of
steps is the model's choice: one for the acceptance, 53 for the events, 8 for the phases and one for the
response (log 11). -/
def Obligations.InitReachesReady : Prop :=
  ∀ (s : State) (a b : Byte) (cs : List Code), Presented s (.req (0x00#8 ++ a ++ b)) cs → Tabled s.cfg →
    (s.phase = .uninitialized → s.stalled = false →
      ∃ t : State, runSteps 63 s = .next t ∧
        t.trace = s.trace ++ initTrace s.cfg ∧
        t.st = ControlState.defaults ∧ t.phase = .ready ∧ t.busy = false ∧
        (t.tf = true ↔ ∃ k, k < 24 ∧ Config.transportAnswer s.cfg.identity (s.draws + k) = .fail) ∧
        t.rsp = (if t.tf then 2#2 else 0#2) ∧
        t.responses = s.responses ++ [t.rsp] ∧ t.input = cs ∧ t.cfg = s.cfg) ∧
    (s.phase ≠ .uninitialized → step s = .next (responded 3#2 { s with input := cs }))

/-- WRITE_STRING (R64, R95), when it may run and nothing else stands before it: the trace is the
concatenation of the traces of its characters in order; each character has one response, TRANSPORT_FAILURE
when one of its four writes was answered `fail` and OK otherwise; the result of the whole is the first that
is not OK, so it is TRANSPORT_FAILURE when any write was answered `fail`; no flag changes; the empty string
is no request. Ten steps for each character are the model's choice: the response is a step of its own
(log 11). -/
def Obligations.WriteStringSendsItsCharacters : Prop :=
  writeString [] = [] ∧
  ∀ (cs : List Byte) (rest : List Code) (s : State),
    s.resetIn = false → s.stalled = false → s.busy = false → Runnable s →
    s.input = writeString cs ++ rest →
    ∃ t : State, runSteps (10 * cs.length) s = .next t ∧
      t.trace = s.trace ++ cs.flatMap (fun c =>
        queueEvents (transmission (c.extractLsb' 4 4) (c.extractLsb' 0 4) s.st.backlightOn true
          s.cfg.timing.fastDelay)) ∧
      t.responses = s.responses ++ (List.range cs.length).map (fun i =>
        if someFail s.cfg.identity (s.draws + 4 * i) 4 then 2#2 else 0#2) ∧
      stringResult (t.responses.drop s.responses.length) =
        (if someFail s.cfg.identity s.draws (4 * cs.length) then 2#2 else 0#2) ∧
      t.input = rest ∧ t.busy = false ∧ t.st = s.st ∧ t.phase = s.phase ∧ t.cfg = s.cfg

/-- R20 and R106: outside reset a step leaves the phase or advances it by exactly one place of the chain,
and only while an operation runs; in `Ready` it stays; and an idle block is in `Uninitialized` or
`Ready`. -/
def Obligations.PhaseAdvancesAlongTheChain : Prop :=
  (∀ s t : State, Inv s → s.resetIn = false → step s = .next t →
    t.phase = s.phase ∨
      (s.busy = true ∧ t.busy = true ∧ s.phase.rest = t.phase :: t.phase.rest)) ∧
  (∀ s t : State, Inv s → s.resetIn = false → s.phase = .ready → step s = .next t → t.phase = .ready) ∧
  (∀ s : State, Inv s → s.busy = false → s.phase = .uninitialized ∨ s.phase = .ready)

/-- R11 to R18: the operations that write each flag, and the value they write; no other instruction
changes it. -/
def Obligations.EachFlagHasItsWriters : Prop :=
  ∀ (i : Instr) (s t : State), exec i s = .next t →
    (t.st.cursorDirection ≠ s.st.cursorDirection → i = .init ∧ t.st.cursorDirection = true) ∧
    (t.st.displayShiftOnWrite ≠ s.st.displayShiftOnWrite → i = .init ∧ t.st.displayShiftOnWrite = false) ∧
    (t.st.cursorVisible ≠ s.st.cursorVisible →
      i = .init ∧ t.st.cursorVisible = false ∨ i = .setCursorVisible t.st.cursorVisible) ∧
    (t.st.displayOn ≠ s.st.displayOn →
      i = .init ∧ t.st.displayOn = true ∨ i = .setDisplay t.st.displayOn ∨ i = .setBacklight t.st.displayOn) ∧
    (t.st.blinking ≠ s.st.blinking →
      i = .init ∧ t.st.blinking = false ∨ i = .setBlink t.st.blinking) ∧
    (t.st.backlightOn ≠ s.st.backlightOn →
      i = .init ∧ t.st.backlightOn = true ∨ i = .setBacklight t.st.backlightOn) ∧
    (t.st.shiftTargetIsDisplay ≠ s.st.shiftTargetIsDisplay →
      i = .init ∧ t.st.shiftTargetIsDisplay = false ∨
      ∃ (right : Bool) (count : Nat), 0 < count ∧
        (i = .shiftDisplay right count ∧ t.st.shiftTargetIsDisplay = true ∨
          i = .shiftCursor right count ∧ t.st.shiftTargetIsDisplay = false)) ∧
    (t.st.shiftDirectionRight ≠ s.st.shiftDirectionRight →
      i = .init ∧ t.st.shiftDirectionRight = false ∨
      ∃ count : Nat, 0 < count ∧
        (i = .shiftDisplay t.st.shiftDirectionRight count ∨ i = .shiftCursor t.st.shiftDirectionRight count))

/-- R21, R33 and R42: while an operation runs no step changes a flag or takes a request, and the events
leave in order: what has been emitted and what is still to be emitted make one unchanged sequence, of
which a step emits at most one event. -/
def Obligations.RunningOperationIsNotDisturbed : Prop :=
  ∀ s t : State, s.resetIn = false → s.busy = true → step s = .next t →
    t.st = s.st ∧ t.input = s.input ∧
    t.trace ++ queueEvents t.queue = s.trace ++ queueEvents s.queue ∧
    s.trace.length ≤ t.trace.length ∧ t.trace.length ≤ s.trace.length + 1

/-- R40 and R37: over any step, a reset included, the trace only grows, by at most one event; and (R6,
R22) no step changes a parameter. -/
def Obligations.TraceOnlyGrowsAndParametersStay : Prop :=
  ∀ s t : State, step s = .next t →
    t.cfg = s.cfg ∧ (t.trace = s.trace ∨ ∃ e : Event, t.trace = s.trace ++ [e]) ∧
    (t.responses = s.responses ∨ t.responses = s.responses ++ [t.rsp])

/-- R61 (level W) and R70: whatever an instruction queues, at any parameters, its writes are enable
pulses: Enable set, then the same byte with Enable clear, ReadWrite 0 in both. -/
def Obligations.QueuedWritesAreEnablePulses : Prop :=
  ∀ (i : Instr) (s t : State), exec i s = .next t → t.queue ≠ s.queue →
    pulseShaped (writes (queueEvents t.queue)) = true

/-- R16: the backlight flag, as the instruction leaves it, is bit 3 of every byte an instruction queues,
in both modes and in INIT's raw pulses. -/
def Obligations.EveryQueuedByteCarriesTheBacklight : Prop :=
  ∀ (i : Instr) (s t : State), exec i s = .next t → t.queue ≠ s.queue →
    ∀ b ∈ writes (queueEvents t.queue), b.getLsbD 3 = t.st.backlightOn

/-! ### What the display receives -/

/-- R19, the shadow invariant, of the operations that rewrite a control register, in phase `Ready`: the
byte that the controller receives is the opcode with the flags as the operation leaves them, when every
write of it arrives, which the model takes for granted (U2, R146, log 15). Before `Ready` nothing is said of the controller (R147, U1). -/
def Obligations.ShadowFlagsReflectTheLastValueSent : Prop :=
  ∀ s t : State, Tabled s.cfg → s.phase = .ready →
    (∀ (on : Bool) (i : Instr),
      i = .setDisplay on ∨ i = .setBacklight on ∨ i = .setCursorVisible on ∨ i = .setBlink on →
      exec i s = .next t →
      received (queueEvents t.queue) =
        [(false, dispctlByte t.st.displayOn t.st.cursorVisible t.st.blinking)]) ∧
    (∀ (right : Bool) (count : Nat) (i : Instr),
      i = .shiftDisplay right count ∨ i = .shiftCursor right count → count < 2 ^ s.cfg.countW →
      exec i s = .next t →
      received (queueEvents t.queue) =
        List.replicate count
          (false, shiftByte t.st.shiftTargetIsDisplay t.st.shiftDirectionRight 0#2))

/-- The nibbles that the controller latches on INIT (R44, R105, R107): three forced 8-bit function sets,
the 4-bit commit, then 0x06, 0x28, 0x0C and 0x01 nibble by nibble, all with RegisterSelect 0. That every
write arrives is the model's choice (log 15). -/
def Obligations.InitHandshakeAsLatched : Prop :=
  ∀ cfg : Config, Tabled cfg →
    latched 0#8 (queueEvents (initItems cfg ControlState.defaults)) =
      [(false, 0x3#4), (false, 0x3#4), (false, 0x3#4), (false, 0x2#4), (false, 0x0#4), (false, 0x6#4),
       (false, 0x2#4), (false, 0x8#4), (false, 0x0#4), (false, 0xC#4), (false, 0x0#4), (false, 0x1#4)]

/-- R149, the row of INIT at the default parameters: 24 writes, 28 delays, one bus configuration, 54800
microseconds of delay. -/
def Obligations.InitEventCounts : Prop :=
  let es := queueEvents (initItems Config.standard ControlState.defaults)
  es.length = 53 ∧ (writes es).length = 24 ∧ (delays es).length = 28 ∧ (delays es).sum = 54800

/-- R45: after any transmission the expander holds Enable 0, ReadWrite 0, Backlight of the flag and
RegisterSelect of the mode, whatever it held before; and nothing is known of it before a first write. That every write of the trace
arrives is the model's choice (log 15). -/
def Obligations.ExpanderIdlesWithEnableClear : Prop :=
  (∀ (t : CommandTable) (st : ControlState) (v : Byte) (m : Mode) (d : Nat) (before : Option Byte),
    ∃ data : Nibble,
      expanderLines before (sendTrace t st v m d) = some (nibbleByte data st.backlightOn false (isData m))) ∧
  (∀ es : List Event, writes es = [] → expanderLines none es = none)

/-- R30 and R38: every write of a trace is one call to the instance's own address on its own bus, with
that byte. -/
def Obligations.WritesGoToTheOneAddress : Prop :=
  ∀ (id : Identity) (es : List Event) (bus : Nat) (address : I2cAddress) (b : Byte),
    Call.i2cWrite bus address b ∈ calls id es ↔
      bus = id.busSelector ∧ address = id.busAddress ∧ b ∈ writes es

/-! ### The levels together, waiting, instances -/

/-- SEND_BYTE in Command mode is the command byte's own instruction, from the host (R71, R75). -/
def Obligations.SendByteRunsTheCommandByte : Prop :=
  ∀ (v : Byte) (x : Settle) (s : State), Runnable s →
    exec (.sendByte v .command x) s = exec (decodeCommand ⟨x, .host⟩ v) s

/-- R151 and R21: while the collaborator of the next event does not return, and while the block is idle
with nothing presented, a step changes nothing; a reset ends the wait. The input `stalled`, and that it holds
up the bus configuration as well as a write and a delay, is the model's choice (log 9). -/
def Obligations.WaitingChangesNothing : Prop :=
  (∀ (s : State) (e : Event) (q : List Item),
    s.resetIn = false → s.busy = true → s.queue = .emit e :: q → s.stalled = true → step s = .next s) ∧
  (∀ s : State, s.resetIn = false → s.busy = false → s.input = [] → step s = .next s) ∧
  (∀ s : State, s.resetIn = true → ∃ t, step s = .next t ∧ t.busy = false)

/-- R130: instances are independent: a step of one is its own step and changes no other. -/
def Obligations.InstancesAreIndependent : Prop :=
  ∀ (k : Nat) (blocks after : List State), stepInstance k blocks = .next after →
    after.length = blocks.length ∧ (∀ j, j ≠ k → after[j]? = blocks[j]?) ∧
    (∀ s, blocks[k]? = some s → ∃ t, step s = .next t ∧ after[k]? = some t)

/-! ### The bus widths, and the result of a string -/

/-- R44, R62 and R105: from a controller in 8-bit mode, INIT's trace is taken in as four commands of one
nibble each (0x3 three times, then the commit 0x2) and then as the bytes 0x06, 0x28, 0x0C and 0x01, and the
controller is in 4-bit mode after it. Which nibble commits is read from R62 and R105 by the model (DEDUCED,
log 15), and that every write arrives is its choice (log 15). -/
def Obligations.InitIsTakenInFromEightBitMode : Prop :=
  ∀ cfg : Config, Tabled cfg →
    let nibbles := latched 0#8 (queueEvents (initItems cfg ControlState.defaults))
    receptions cfg.table .eight nibbles =
      [.upper false 0x3#4, .upper false 0x3#4, .upper false 0x3#4, .upper false 0x2#4,
       .whole false 0x06#8, .whole false 0x28#8, .whole false 0x0C#8, .whole false 0x01#8] ∧
    BusWidth.after cfg.table .eight nibbles = .four

/-- R44: what a controller in 8-bit mode takes in is one command for each latched nibble as long as none
commits it, and from the commit on bytes, two nibbles each. Where the two nibbles differ in RegisterSelect,
that the high one's decides is the model's choice, and so is which nibble commits (log 15). -/
def Obligations.EightBitModeEndsAtTheCommit : Prop :=
  (∀ (t : CommandTable) (before after : List (Bool × Nibble)) (p : Bool × Nibble),
    (∀ q ∈ before, commitsToFour t q = false) → commitsToFour t p = true →
    receptions t .eight (before ++ p :: after) =
      (before ++ [p]).map (fun q => .upper q.1 q.2) ++ receptions t .four after) ∧
  (∀ (t : CommandTable) (rs rs' : Bool) (hi lo : Nibble) (after : List (Bool × Nibble)),
    receptions t .four ((rs, hi) :: (rs', lo) :: after) = .whole rs (hi ++ lo) :: receptions t .four after) ∧
  (∀ rs : Bool, ∀ n : Nibble, commitsToFour CommandTable.hd44780 (rs, n) = (!rs && decide (n = 0x2#4)))

/-- R95: the result of the reference expansion is that of its loop, which keeps the first result that is
not OK. -/
def Obligations.StringResultIsTheFirstThatIsNotOk : Prop :=
  ∀ rs : List RspCode, stringResult rs = rs.foldl (fun result r => if result = 0#2 then r else result) 0#2
end

