-- ==== Sys2Proof/Laws/State.lean ====
section
/-! SUPPORT. One lemma for each field of the state after each update of Machine/Ops.lean. -/

namespace Sys2Proof.Machine

variable (s : State)

@[simp] theorem State.setQueue_cfg (q : List Item) : (s.setQueue q).cfg = s.cfg := rfl
@[simp] theorem State.setQueue_st (q : List Item) : (s.setQueue q).st = s.st := rfl
@[simp] theorem State.setQueue_phase (q : List Item) : (s.setQueue q).phase = s.phase := rfl
@[simp] theorem State.setQueue_busy (q : List Item) : (s.setQueue q).busy = s.busy := rfl
@[simp] theorem State.setQueue_queue (q : List Item) : (s.setQueue q).queue = q := rfl
@[simp] theorem State.setQueue_tf (q : List Item) : (s.setQueue q).tf = s.tf := rfl
@[simp] theorem State.setQueue_rsp (q : List Item) : (s.setQueue q).rsp = s.rsp := rfl
@[simp] theorem State.setQueue_trace (q : List Item) : (s.setQueue q).trace = s.trace := rfl
@[simp] theorem State.setQueue_responses (q : List Item) : (s.setQueue q).responses = s.responses := rfl
@[simp] theorem State.setQueue_input (q : List Item) : (s.setQueue q).input = s.input := rfl
@[simp] theorem State.setQueue_resetIn (q : List Item) : (s.setQueue q).resetIn = s.resetIn := rfl
@[simp] theorem State.setQueue_stalled (q : List Item) : (s.setQueue q).stalled = s.stalled := rfl
@[simp] theorem State.setQueue_draws (q : List Item) : (s.setQueue q).draws = s.draws := rfl

@[simp] theorem State.setInput_cfg (cs : List Code) : (s.setInput cs).cfg = s.cfg := rfl
@[simp] theorem State.setInput_st (cs : List Code) : (s.setInput cs).st = s.st := rfl
@[simp] theorem State.setInput_phase (cs : List Code) : (s.setInput cs).phase = s.phase := rfl
@[simp] theorem State.setInput_busy (cs : List Code) : (s.setInput cs).busy = s.busy := rfl
@[simp] theorem State.setInput_queue (cs : List Code) : (s.setInput cs).queue = s.queue := rfl
@[simp] theorem State.setInput_tf (cs : List Code) : (s.setInput cs).tf = s.tf := rfl
@[simp] theorem State.setInput_rsp (cs : List Code) : (s.setInput cs).rsp = s.rsp := rfl
@[simp] theorem State.setInput_trace (cs : List Code) : (s.setInput cs).trace = s.trace := rfl
@[simp] theorem State.setInput_responses (cs : List Code) : (s.setInput cs).responses = s.responses := rfl
@[simp] theorem State.setInput_input (cs : List Code) : (s.setInput cs).input = cs := rfl
@[simp] theorem State.setInput_resetIn (cs : List Code) : (s.setInput cs).resetIn = s.resetIn := rfl
@[simp] theorem State.setInput_stalled (cs : List Code) : (s.setInput cs).stalled = s.stalled := rfl
@[simp] theorem State.setInput_draws (cs : List Code) : (s.setInput cs).draws = s.draws := rfl

@[simp] theorem State.enterPhase_cfg (p : Phase) : (s.enterPhase p).cfg = s.cfg := rfl
@[simp] theorem State.enterPhase_st (p : Phase) : (s.enterPhase p).st = s.st := rfl
@[simp] theorem State.enterPhase_phase (p : Phase) : (s.enterPhase p).phase = p := rfl
@[simp] theorem State.enterPhase_busy (p : Phase) : (s.enterPhase p).busy = s.busy := rfl
@[simp] theorem State.enterPhase_queue (p : Phase) : (s.enterPhase p).queue = s.queue := rfl
@[simp] theorem State.enterPhase_tf (p : Phase) : (s.enterPhase p).tf = s.tf := rfl
@[simp] theorem State.enterPhase_rsp (p : Phase) : (s.enterPhase p).rsp = s.rsp := rfl
@[simp] theorem State.enterPhase_trace (p : Phase) : (s.enterPhase p).trace = s.trace := rfl
@[simp] theorem State.enterPhase_responses (p : Phase) : (s.enterPhase p).responses = s.responses := rfl
@[simp] theorem State.enterPhase_input (p : Phase) : (s.enterPhase p).input = s.input := rfl
@[simp] theorem State.enterPhase_resetIn (p : Phase) : (s.enterPhase p).resetIn = s.resetIn := rfl
@[simp] theorem State.enterPhase_stalled (p : Phase) : (s.enterPhase p).stalled = s.stalled := rfl
@[simp] theorem State.enterPhase_draws (p : Phase) : (s.enterPhase p).draws = s.draws := rfl

@[simp] theorem State.emit_cfg (e : Event) : (s.emit e).cfg = s.cfg := rfl
@[simp] theorem State.emit_st (e : Event) : (s.emit e).st = s.st := rfl
@[simp] theorem State.emit_phase (e : Event) : (s.emit e).phase = s.phase := rfl
@[simp] theorem State.emit_busy (e : Event) : (s.emit e).busy = s.busy := rfl
@[simp] theorem State.emit_queue (e : Event) : (s.emit e).queue = s.queue := rfl
@[simp] theorem State.emit_tf (e : Event) : (s.emit e).tf = s.tf := rfl
@[simp] theorem State.emit_rsp (e : Event) : (s.emit e).rsp = s.rsp := rfl
@[simp] theorem State.emit_trace (e : Event) : (s.emit e).trace = s.trace ++ [e] := rfl
@[simp] theorem State.emit_responses (e : Event) : (s.emit e).responses = s.responses := rfl
@[simp] theorem State.emit_input (e : Event) : (s.emit e).input = s.input := rfl
@[simp] theorem State.emit_resetIn (e : Event) : (s.emit e).resetIn = s.resetIn := rfl
@[simp] theorem State.emit_stalled (e : Event) : (s.emit e).stalled = s.stalled := rfl
@[simp] theorem State.emit_draws (e : Event) : (s.emit e).draws = s.draws := rfl

@[simp] theorem State.emitWrite_cfg (b : Byte) (a : Answer) : (s.emitWrite b a).cfg = s.cfg := rfl
@[simp] theorem State.emitWrite_st (b : Byte) (a : Answer) : (s.emitWrite b a).st = s.st := rfl
@[simp] theorem State.emitWrite_phase (b : Byte) (a : Answer) : (s.emitWrite b a).phase = s.phase := rfl
@[simp] theorem State.emitWrite_busy (b : Byte) (a : Answer) : (s.emitWrite b a).busy = s.busy := rfl
@[simp] theorem State.emitWrite_queue (b : Byte) (a : Answer) : (s.emitWrite b a).queue = s.queue := rfl
@[simp] theorem State.emitWrite_tf (b : Byte) (a : Answer) : (s.emitWrite b a).tf = (s.tf || decide (a = .fail)) := rfl
@[simp] theorem State.emitWrite_rsp (b : Byte) (a : Answer) : (s.emitWrite b a).rsp = s.rsp := rfl
@[simp] theorem State.emitWrite_trace (b : Byte) (a : Answer) : (s.emitWrite b a).trace = s.trace ++ [.write b] := rfl
@[simp] theorem State.emitWrite_responses (b : Byte) (a : Answer) : (s.emitWrite b a).responses = s.responses := rfl
@[simp] theorem State.emitWrite_input (b : Byte) (a : Answer) : (s.emitWrite b a).input = s.input := rfl
@[simp] theorem State.emitWrite_resetIn (b : Byte) (a : Answer) : (s.emitWrite b a).resetIn = s.resetIn := rfl
@[simp] theorem State.emitWrite_stalled (b : Byte) (a : Answer) : (s.emitWrite b a).stalled = s.stalled := rfl
@[simp] theorem State.emitWrite_draws (b : Byte) (a : Answer) : (s.emitWrite b a).draws = s.draws + 1 := rfl

@[simp] theorem State.respond_cfg (r : Result) : (s.respond r).cfg = s.cfg := rfl
@[simp] theorem State.respond_st (r : Result) : (s.respond r).st = s.st := rfl
@[simp] theorem State.respond_phase (r : Result) : (s.respond r).phase = s.phase := rfl
@[simp] theorem State.respond_busy (r : Result) : (s.respond r).busy = false := rfl
@[simp] theorem State.respond_queue (r : Result) : (s.respond r).queue = s.queue := rfl
@[simp] theorem State.respond_tf (r : Result) : (s.respond r).tf = s.tf := rfl
@[simp] theorem State.respond_rsp (r : Result) : (s.respond r).rsp = r.code := rfl
@[simp] theorem State.respond_trace (r : Result) : (s.respond r).trace = s.trace := rfl
@[simp] theorem State.respond_responses (r : Result) : (s.respond r).responses = s.responses ++ [r.code] := rfl
@[simp] theorem State.respond_input (r : Result) : (s.respond r).input = s.input := rfl
@[simp] theorem State.respond_resetIn (r : Result) : (s.respond r).resetIn = s.resetIn := rfl
@[simp] theorem State.respond_stalled (r : Result) : (s.respond r).stalled = s.stalled := rfl
@[simp] theorem State.respond_draws (r : Result) : (s.respond r).draws = s.draws := rfl

@[simp] theorem State.accept_cfg (st : ControlState) (q : List Item) : (s.accept st q).cfg = s.cfg := rfl
@[simp] theorem State.accept_st (st : ControlState) (q : List Item) : (s.accept st q).st = st := rfl
@[simp] theorem State.accept_phase (st : ControlState) (q : List Item) : (s.accept st q).phase = s.phase := rfl
@[simp] theorem State.accept_busy (st : ControlState) (q : List Item) : (s.accept st q).busy = true := rfl
@[simp] theorem State.accept_queue (st : ControlState) (q : List Item) : (s.accept st q).queue = q := rfl
@[simp] theorem State.accept_tf (st : ControlState) (q : List Item) : (s.accept st q).tf = false := rfl
@[simp] theorem State.accept_rsp (st : ControlState) (q : List Item) : (s.accept st q).rsp = s.rsp := rfl
@[simp] theorem State.accept_trace (st : ControlState) (q : List Item) : (s.accept st q).trace = s.trace := rfl
@[simp] theorem State.accept_responses (st : ControlState) (q : List Item) : (s.accept st q).responses = s.responses := rfl
@[simp] theorem State.accept_input (st : ControlState) (q : List Item) : (s.accept st q).input = s.input := rfl
@[simp] theorem State.accept_resetIn (st : ControlState) (q : List Item) : (s.accept st q).resetIn = s.resetIn := rfl
@[simp] theorem State.accept_stalled (st : ControlState) (q : List Item) : (s.accept st q).stalled = s.stalled := rfl
@[simp] theorem State.accept_draws (st : ControlState) (q : List Item) : (s.accept st q).draws = s.draws := rfl

@[simp] theorem State.blockReset_cfg : s.blockReset.cfg = s.cfg := rfl
@[simp] theorem State.blockReset_st : s.blockReset.st = ControlState.defaults := rfl
@[simp] theorem State.blockReset_phase : s.blockReset.phase = .uninitialized := rfl
@[simp] theorem State.blockReset_busy : s.blockReset.busy = false := rfl
@[simp] theorem State.blockReset_queue : s.blockReset.queue = [] := rfl
@[simp] theorem State.blockReset_tf : s.blockReset.tf = false := rfl
@[simp] theorem State.blockReset_rsp : s.blockReset.rsp = 0#2 := rfl
@[simp] theorem State.blockReset_trace : s.blockReset.trace = s.trace := rfl
@[simp] theorem State.blockReset_responses : s.blockReset.responses = s.responses := rfl
@[simp] theorem State.blockReset_input : s.blockReset.input = s.input := rfl
@[simp] theorem State.blockReset_resetIn : s.blockReset.resetIn = false := rfl
@[simp] theorem State.blockReset_stalled : s.blockReset.stalled = s.stalled := rfl
@[simp] theorem State.blockReset_draws : s.blockReset.draws = s.draws := rfl

@[simp] theorem State.loadCode_cfg (c : Code) : (s.loadCode c).cfg = s.cfg := rfl
@[simp] theorem State.loadCode_st (c : Code) : (s.loadCode c).st = s.st := rfl
@[simp] theorem State.loadCode_phase (c : Code) : (s.loadCode c).phase = s.phase := rfl
@[simp] theorem State.loadCode_busy (c : Code) : (s.loadCode c).busy = false := rfl
@[simp] theorem State.loadCode_queue (c : Code) : (s.loadCode c).queue = [] := rfl
@[simp] theorem State.loadCode_tf (c : Code) : (s.loadCode c).tf = s.tf := rfl
@[simp] theorem State.loadCode_rsp (c : Code) : (s.loadCode c).rsp = s.rsp := rfl
@[simp] theorem State.loadCode_trace (c : Code) : (s.loadCode c).trace = s.trace := rfl
@[simp] theorem State.loadCode_responses (c : Code) : (s.loadCode c).responses = s.responses := rfl
@[simp] theorem State.loadCode_input (c : Code) : (s.loadCode c).input = c :: s.input := rfl
@[simp] theorem State.loadCode_resetIn (c : Code) : (s.loadCode c).resetIn = false := rfl
@[simp] theorem State.loadCode_stalled (c : Code) : (s.loadCode c).stalled = s.stalled := rfl
@[simp] theorem State.loadCode_draws (c : Code) : (s.loadCode c).draws = s.draws := rfl

end Sys2Proof.Machine
end

