-- ==== Sys2Proof/Laws/Bits.lean ====
section
/-! SUPPORT. The bytes of a transmission, as nibble bytes: what `pulse` and `sendTrace` emit, once. -/

namespace Sys2Proof.Machine

theorem nibbleByte_or_enable (d : Nibble) (bl rs : Bool) :
    nibbleByte d bl false rs ||| enableMask = nibbleByte d bl true rs := by
  revert d bl rs; decide

theorem nibbleByte_and_not_enable (d : Nibble) (bl rs : Bool) :
    nibbleByte d bl false rs &&& ~~~enableMask = nibbleByte d bl false rs := by
  revert d bl rs; decide

theorem nibbleByte_readWrite (d : Nibble) (bl en rs : Bool) : (nibbleByte d bl en rs).getLsbD 1 = false := by
  revert d bl en rs; decide

theorem nibbleByte_enable (d : Nibble) (bl en rs : Bool) : (nibbleByte d bl en rs).getLsbD 2 = en := by
  revert d bl en rs; decide

theorem nibbleByte_registerSelect (d : Nibble) (bl en rs : Bool) :
    (nibbleByte d bl en rs).getLsbD 0 = rs := by
  revert d bl en rs; decide

theorem nibbleByte_data (d : Nibble) (bl en rs : Bool) : (nibbleByte d bl en rs).extractLsb' 4 4 = d := by
  revert d bl en rs; decide

theorem hiData_or_ctl (v : Byte) (m : Mode) (bl : Bool) :
    hiData v ||| ctl m bl = nibbleByte (v.extractLsb' 4 4) bl false (isData m) := by
  cases m <;> revert v bl <;> decide

theorem loData_or_ctl (v : Byte) (m : Mode) (bl : Bool) :
    loData v ||| ctl m bl = nibbleByte (v.extractLsb' 0 4) bl false (isData m) := by
  cases m <;> revert v bl <;> decide

/-- ORing four bits into the data bits of a nibble byte. -/
theorem nibbleByte_or_data (d e : Nibble) (bl rs : Bool) :
    nibbleByte d bl false rs ||| (e.setWidth 8 <<< 4) = nibbleByte (d ||| e) bl false rs := by
  revert d e bl rs; decide

/-- The data nibble of the low nibble byte: the low half of the value, with the injected bits in Command
mode (R71). -/
def loNibble (t : CommandTable) (st : ControlState) (v : Byte) (m : Mode) : Nibble :=
  match m with
  | .command => v.extractLsb' 0 4 ||| inject t st v
  | .data => v.extractLsb' 0 4

theorem hiByte_eq (st : ControlState) (v : Byte) (m : Mode) :
    hiByte st v m = nibbleByte (v.extractLsb' 4 4) st.backlightOn false (isData m) :=
  hiData_or_ctl v m st.backlightOn

theorem loByte_eq (t : CommandTable) (st : ControlState) (v : Byte) (m : Mode) :
    loByte t st v m = nibbleByte (loNibble t st v m) st.backlightOn false (isData m) := by
  cases m with
  | command => simp only [loByte, loData_or_ctl, nibbleByte_or_data, loNibble]
  | data => simp only [loByte, loData_or_ctl, loNibble]

theorem pulse_nibbleByte (n : Nibble) (bl rs : Bool) (d : Nat) :
    pulse (nibbleByte n bl false rs) d =
      [.write (nibbleByte n bl true rs), .delay d, .write (nibbleByte n bl false rs), .delay d] := by
  simp only [pulse, nibbleByte_or_enable, nibbleByte_and_not_enable]

/-- A `sendByte` is a full transmission of the high nibble and the low nibble (R62, R71). -/
theorem items_sendTrace (t : CommandTable) (st : ControlState) (v : Byte) (m : Mode) (d : Nat) :
    items (sendTrace t st v m d) =
      transmission (v.extractLsb' 4 4) (loNibble t st v m) st.backlightOn (isData m) d := by
  simp [items, sendTrace, hiByte_eq, loByte_eq, pulse_nibbleByte, transmission]

/-- A raw pulse of INIT is the single-nibble form (R62, R107). -/
theorem rawPulse_eq (cfg : Config) (st : ControlState) (v : Byte) :
    rawPulse cfg st v = singleNibble (v.extractLsb' 4 4) st.backlightOn cfg.timing.fastDelay := by
  simp [rawPulse, items, hiByte_eq, pulse_nibbleByte, singleNibble, isData]

theorem items_repeated_one (es : List Event) : items (repeated 1 es) = items es := by
  simp [repeated]

theorem items_repeated (n : Nat) (es : List Event) :
    items (repeated n es) = (List.replicate n (items es)).flatten := by
  simp [items, repeated, List.map_flatten]

end Sys2Proof.Machine
end

