-- ==== Sys2Proof/Laws/Decode.lean ====
section
/-! SUPPORT. The fields of an encoded word are the fields it was made of, and the bytes of the command and
nibble formats are those of their fields. -/

namespace Sys2Proof

@[simp] theorem reqOp_reqWord (op a b : Byte) : reqOp (reqWord op a b) = op := by
  apply BitVec.eq_of_getLsbD_eq
  intro i hi
  simp only [reqOp, reqWord, BitVec.getLsbD_extractLsb', BitVec.getLsbD_append]
  have h1 : ¬16 + i < 8 := by omega
  have h2 : ¬16 + i - 8 < 8 := by omega
  have h3 : 16 + i - 8 - 8 = i := by omega
  simp [hi, h1, h2, h3]

@[simp] theorem reqA_reqWord (op a b : Byte) : reqA (reqWord op a b) = a := by
  apply BitVec.eq_of_getLsbD_eq
  intro i hi
  simp only [reqA, reqWord, BitVec.getLsbD_extractLsb', BitVec.getLsbD_append]
  have h1 : ¬8 + i < 8 := by omega
  have h3 : 8 + i - 8 = i := by omega
  simp [hi, h1, h3]

@[simp] theorem reqB_reqWord (op a b : Byte) : reqB (reqWord op a b) = b := by
  apply BitVec.eq_of_getLsbD_eq
  intro i hi
  simp only [reqB, reqWord, BitVec.getLsbD_extractLsb', BitVec.getLsbD_append]
  simp [hi]

@[simp] theorem boolOperand_boolField (b : Bool) : boolOperand (boolField b) = b := by
  cases b <;> decide

theorem modeOperand_sendByteField (m : Mode) (x : Settle) :
    modeOperand ((sendByteField m x).getLsbD 0) = m := by
  cases m <;> cases x <;> decide

theorem settleOperand_sendByteField (m : Mode) (x : Settle) :
    settleOperand ((sendByteField m x).getLsbD 1) = x := by
  cases m <;> cases x <;> decide

/-- A count that fits its field is read back. -/
theorem toNat_ofNat_count {count : Nat} (h : countFits count = true) :
    (BitVec.ofNat 8 count).toNat = count := by
  have h : count < 256 := of_decide_eq_true h
  simpa using Nat.mod_eq_of_lt h

/-- A count read from a field fits it. -/
theorem countFits_toNat (b : Byte) : countFits b.toNat = true := by
  exact decide_eq_true b.isLt

end Sys2Proof
end

