-- ==== Sys2Proof/Laws/Ops.lean ====
section
/-! SUPPORT. One lemma for each shared operation that answers an outcome: everything it can do. -/

namespace Sys2Proof.Machine

variable {s t : State}

/-! ### When each operation runs -/

theorem sequenced_iff (s : State) : sequenced s = true ↔ Runnable s := by
  unfold sequenced Runnable
  cases s.cfg.strict <;> simp

theorem prelude_of_runnable (h : Runnable s) (body : Host.Outcome State Fault Refusal) :
    prelude s body = body := by
  simp [prelude, (sequenced_iff s).2 h]

theorem prelude_of_not_runnable (h : ¬Runnable s) (body : Host.Outcome State Fault Refusal) :
    prelude s body = raise .sequencingViolation s := by
  have : sequenced s = false := by
    cases hs : sequenced s with
    | false => rfl
    | true => exact absurd ((sequenced_iff s).1 hs) h
  simp [prelude, this]

theorem raise_eq (r : Result) (s : State) : raise r s = .next (responded r.code s) := rfl

theorem complete_eq (r : Result) (s : State) : complete r s = .next (responded r.code s) := rfl

theorem accept_eq (st : ControlState) (q : List Item) (s : State) : s.accept st q = accepted st q s := rfl

theorem transmit_of_admitted {m : Mode} {v : Byte} {ctx : Context}
    (h : sendAdmitted s.cfg.table m v ctx = true) (st : ControlState) (n d : Nat) :
    transmit st n v m d ctx s =
      .next (accepted st (items (repeated n (sendTrace s.cfg.table st v m d))) s) := by
  simp [transmit, h, accept_eq]

theorem transmit_of_rejected {m : Mode} {v : Byte} {ctx : Context}
    (h : sendAdmitted s.cfg.table m v ctx = false) (st : ControlState) (n d : Nat) :
    transmit st n v m d ctx s = .next (responded 1#2 s) := by
  simp [transmit, h, raise_eq, Result.code]

/-- A single admitted transmission, written out. -/
theorem transmit_one {m : Mode} {v : Byte} {ctx : Context}
    (h : sendAdmitted s.cfg.table m v ctx = true) (st : ControlState) (d : Nat) :
    transmit st 1 v m d ctx s =
      .next (accepted st
        (transmission (v.extractLsb' 4 4) (loNibble s.cfg.table st v m) st.backlightOn (isData m) d) s) := by
  rw [transmit_of_admitted h, items_repeated_one, items_sendTrace]

/-! ### What a next state can be -/

/-- The ways a request or a command byte changes the state: it is rejected with a code, or it is accepted
with a queue of `n` equal transmissions at one of the two settle delays. -/
def Transmits (s t : State) : Prop :=
  (∃ r, t = s.respond r) ∨
  (∃ st n v m d, t = s.accept st (items (repeated n (sendTrace s.cfg.table st v m d))) ∧
    (d = s.cfg.timing.fastDelay ∨ d = s.cfg.timing.slowDelay))

theorem raise_transmits {r : Result} (h : raise r s = .next t) : Transmits s t := by
  cases h; exact .inl ⟨r, rfl⟩

theorem transmit_transmits {st : ControlState} {n d : Nat} {v : Byte} {m : Mode} {ctx : Context}
    (hd : d = s.cfg.timing.fastDelay ∨ d = s.cfg.timing.slowDelay)
    (h : transmit st n v m d ctx s = .next t) : Transmits s t := by
  unfold transmit at h
  split at h
  · cases h; exact .inr ⟨st, n, v, m, d, rfl, hd⟩
  · exact raise_transmits h

theorem prelude_transmits {body : Host.Outcome State Fault Refusal}
    (hb : body = .next t → Transmits s t) (h : prelude s body = .next t) : Transmits s t := by
  unfold prelude at h
  split at h
  · exact hb h
  · exact raise_transmits h

theorem shiftBy_transmits {display right : Bool} {n : Nat} (h : shiftBy display right n s = .next t) :
    Transmits s t := by
  unfold shiftBy at h
  split at h
  · cases h; exact .inr ⟨s.st, 0, 0#8, .data, _, rfl, .inl rfl⟩
  · exact transmit_transmits (.inl rfl) h

theorem settleDelay_cases (tm : Timing) (x : Settle) :
    settleDelay tm x = tm.fastDelay ∨ settleDelay tm x = tm.slowDelay := by
  cases x <;> simp [settleDelay]

theorem sendCommand_transmits {caller : Caller} {v : Byte} (h : sendCommand caller v s = .next t) :
    Transmits s t :=
  transmit_transmits (settleDelay_cases _ _) h

/-! ### Shift counts -/

theorem countOperand_of_lt {w n : Nat} (h : n < 2 ^ w) : countOperand w n = n := Nat.mod_eq_of_lt h

@[simp] theorem countOperand_zero (w : Nat) : countOperand w 0 = 0 := Nat.zero_mod _

@[simp] theorem countOperand_mod (w n : Nat) : countOperand w (n % 2 ^ w) = countOperand w n :=
  Nat.mod_mod ..

/-! ### No operation stops -/

theorem transmit_next (st : ControlState) (n : Nat) (v : Byte) (m : Mode) (d : Nat) (ctx : Context) (s : State) :
    ∃ t, transmit st n v m d ctx s = .next t := by
  unfold transmit; split
  · exact ⟨_, rfl⟩
  · exact ⟨_, rfl⟩

theorem prelude_next {body : Host.Outcome State Fault Refusal} (h : ∃ t, body = .next t) (s : State) :
    ∃ t, prelude s body = .next t := by
  unfold prelude; split
  · exact h
  · exact ⟨_, rfl⟩

theorem shiftBy_next (display right : Bool) (n : Nat) (s : State) :
    ∃ t, shiftBy display right n s = .next t := by
  unfold shiftBy; split
  · exact ⟨_, rfl⟩
  · exact transmit_next ..

end Sys2Proof.Machine
end

