-- ==== Sys2Proof/Laws/Exec.lean ====
section
/-! SUPPORT. What `exec` can do, said once for all instructions. -/

namespace Sys2Proof.Machine

variable {s t : State}

/-- INIT's next state: rejected, or accepted with the defaults and the whole sequence. -/
theorem execInit_cases (h : execInit s = .next t) :
    (∃ r, t = s.respond r) ∨
    (s.phase = .uninitialized ∧ t = s.accept ControlState.defaults (initItems s.cfg ControlState.defaults)) := by
  unfold execInit at h
  split at h
  · split at h
    · cases h; exact .inr ⟨‹_›, rfl⟩
    · cases h; exact .inl ⟨_, rfl⟩
  · cases h; exact .inl ⟨_, rfl⟩

theorem execClear_transmits (h : execClear s = .next t) : Transmits s t :=
  prelude_transmits (transmit_transmits (.inr rfl)) h

theorem execWriteChar_transmits {ch : Byte} (h : execWriteChar ch s = .next t) : Transmits s t :=
  prelude_transmits (transmit_transmits (.inl rfl)) h

theorem execSetCursor_transmits {line column : Byte} (h : execSetCursor line column s = .next t) :
    Transmits s t := by
  refine prelude_transmits (fun hb => ?_) h
  split at hb
  · exact transmit_transmits (.inl rfl) hb
  · exact raise_transmits hb

theorem resendDisplayControl_transmits {st : ControlState} (h : resendDisplayControl st s = .next t) :
    Transmits s t :=
  transmit_transmits (.inl rfl) h

theorem execSendByte_transmits {v : Byte} {m : Mode} {x : Settle} (h : execSendByte v m x s = .next t) :
    Transmits s t :=
  prelude_transmits (transmit_transmits (settleDelay_cases _ _)) h

/-- Every next state of `exec` is that of INIT, of a transmission, of a write, or of a response. -/
theorem exec_cases {i : Instr} (h : exec i s = .next t) :
    Transmits s t ∨
    (i = .init ∧ s.phase = .uninitialized ∧
      t = s.accept ControlState.defaults (initItems s.cfg ControlState.defaults)) ∨
    (∃ b, t = s.emitWrite b (Config.transportAnswer s.cfg.identity s.draws)) := by
  cases i with
  | init =>
    rcases execInit_cases h with hr | ⟨hp, ht⟩
    · exact .inl (.inl hr)
    · exact .inr (.inl ⟨rfl, hp, ht⟩)
  | clear => exact .inl (execClear_transmits h)
  | writeChar ch => exact .inl (execWriteChar_transmits h)
  | setCursor line column => exact .inl (execSetCursor_transmits h)
  | setDisplay on => exact .inl (prelude_transmits resendDisplayControl_transmits h)
  | setBacklight on => exact .inl (prelude_transmits resendDisplayControl_transmits h)
  | setCursorVisible on => exact .inl (prelude_transmits resendDisplayControl_transmits h)
  | setBlink on => exact .inl (prelude_transmits resendDisplayControl_transmits h)
  | shiftDisplay right count => exact .inl (prelude_transmits shiftBy_transmits h)
  | shiftCursor right count => exact .inl (prelude_transmits shiftBy_transmits h)
  | sendByte value mode settle => exact .inl (execSendByte_transmits h)
  | cmdDdram caller address => exact .inl (sendCommand_transmits h)
  | cmdCgram caller address => exact .inl (sendCommand_transmits h)
  | cmdFunc caller dl n f x => exact .inl (sendCommand_transmits h)
  | cmdShift caller sc rl x => exact .inl (sendCommand_transmits h)
  | cmdDispctl caller d c b => exact .inl (sendCommand_transmits h)
  | cmdEntry caller incr shift => exact .inl (sendCommand_transmits h)
  | cmdOther caller x => exact .inl (sendCommand_transmits h)
  | nibbleEnSet data bl rs => cases h; exact .inr (.inr ⟨_, rfl⟩)
  | nibbleEnClr data bl rs => cases h; exact .inr (.inr ⟨_, rfl⟩)
  | rspOk => cases h; exact .inl (.inl ⟨_, rfl⟩)
  | rspInvalidArgument => cases h; exact .inl (.inl ⟨_, rfl⟩)
  | rspTransportFailure => cases h; exact .inl (.inl ⟨_, rfl⟩)
  | rspSequencingViolation => cases h; exact .inl (.inl ⟨_, rfl⟩)

/-! ### What an instruction does to the flags -/

theorem transmit_flags {st : ControlState} {n d : Nat} {v : Byte} {m : Mode} {ctx : Context}
    (h : transmit st n v m d ctx s = .next t) : t.st = s.st ∨ t.st = st := by
  unfold transmit at h
  split at h <;> cases h
  · exact .inr rfl
  · exact .inl rfl

theorem prelude_flags {body : Host.Outcome State Fault Refusal} {P : Prop}
    (hb : body = .next t → t.st = s.st ∨ P) (h : prelude s body = .next t) : t.st = s.st ∨ P := by
  unfold prelude at h
  split at h
  · exact hb h
  · cases h; exact .inl rfl

theorem shiftBy_flags {display right : Bool} {n : Nat} (h : shiftBy display right n s = .next t) :
    t.st = s.st ∨ (0 < n ∧ t.st = s.st.setShift display right) := by
  unfold shiftBy at h
  split at h
  · cases h; exact .inl rfl
  · exact (transmit_flags h).imp_right fun h => ⟨by omega, h⟩

theorem sendCommand_flags {caller : Caller} {v : Byte} (h : sendCommand caller v s = .next t) :
    t.st = s.st := (transmit_flags h).elim id id

/-- A count whose `COUNT_W` bits are not zero is not zero. -/
theorem pos_of_countOperand_pos {w n : Nat} (h : 0 < countOperand w n) : 0 < n := by
  rcases Nat.eq_zero_or_pos n with rfl | hn
  · simp at h
  · exact hn

/-- The flag writes of every instruction: none, or those of the operation (R10 to R18). -/
theorem exec_flags {i : Instr} (h : exec i s = .next t) :
    t.st = s.st ∨
    match i with
    | .init => t.st = ControlState.defaults
    | .setDisplay on => t.st = s.st.setDisplay on
    | .setBacklight on => t.st = s.st.setBacklight on
    | .setCursorVisible on => t.st = s.st.setCursorVisible on
    | .setBlink on => t.st = s.st.setBlink on
    | .shiftDisplay right count => 0 < count ∧ t.st = s.st.setShift true right
    | .shiftCursor right count => 0 < count ∧ t.st = s.st.setShift false right
    | _ => False := by
  have same {body : Host.Outcome State Fault Refusal} (hb : body = .next t → t.st = s.st)
      (h : prelude s body = .next t) : t.st = s.st ∨ False := prelude_flags (fun h => .inl (hb h)) h
  cases i with
  | init =>
    rcases execInit_cases h with ⟨r, rfl⟩ | ⟨_, rfl⟩
    · exact .inl rfl
    · exact .inr rfl
  | clear => exact same (fun h => (transmit_flags h).elim id id) h
  | writeChar ch => exact same (fun h => (transmit_flags h).elim id id) h
  | setCursor line column =>
    refine same (fun h => ?_) h
    split at h
    · exact (transmit_flags h).elim id id
    · cases h; rfl
  | setDisplay on => exact prelude_flags transmit_flags h
  | setBacklight on => exact prelude_flags transmit_flags h
  | setCursorVisible on => exact prelude_flags transmit_flags h
  | setBlink on => exact prelude_flags transmit_flags h
  | shiftDisplay right count =>
    exact prelude_flags (fun h => (shiftBy_flags h).imp_right (.imp_left pos_of_countOperand_pos)) h
  | shiftCursor right count =>
    exact prelude_flags (fun h => (shiftBy_flags h).imp_right (.imp_left pos_of_countOperand_pos)) h
  | sendByte value mode settle => exact same (fun h => (transmit_flags h).elim id id) h
  | cmdDdram caller address => exact .inl (sendCommand_flags h)
  | cmdCgram caller address => exact .inl (sendCommand_flags h)
  | cmdFunc caller dl n f x => exact .inl (sendCommand_flags h)
  | cmdShift caller sc rl x => exact .inl (sendCommand_flags h)
  | cmdDispctl caller d c b => exact .inl (sendCommand_flags h)
  | cmdEntry caller incr shift => exact .inl (sendCommand_flags h)
  | cmdOther caller x => exact .inl (sendCommand_flags h)
  | nibbleEnSet data bl rs => cases h; exact .inl rfl
  | nibbleEnClr data bl rs => cases h; exact .inl rfl
  | rspOk => cases h; exact .inl rfl
  | rspInvalidArgument => cases h; exact .inl rfl
  | rspTransportFailure => cases h; exact .inl rfl
  | rspSequencingViolation => cases h; exact .inl rfl

/-- No instruction stops the block (R115). -/
theorem exec_next (i : Instr) (s : State) : ∃ t, exec i s = .next t := by
  cases i with
  | init =>
    show ∃ t, execInit s = .next t
    unfold execInit
    split
    · split
      · exact ⟨_, rfl⟩
      · exact ⟨_, rfl⟩
    · exact ⟨_, rfl⟩
  | clear => exact prelude_next (transmit_next ..) s
  | writeChar ch => exact prelude_next (transmit_next ..) s
  | setCursor line column =>
    refine prelude_next ?_ s
    split
    · exact transmit_next ..
    · exact ⟨_, rfl⟩
  | setDisplay on => exact prelude_next (transmit_next ..) s
  | setBacklight on => exact prelude_next (transmit_next ..) s
  | setCursorVisible on => exact prelude_next (transmit_next ..) s
  | setBlink on => exact prelude_next (transmit_next ..) s
  | shiftDisplay right count => exact prelude_next (shiftBy_next ..) s
  | shiftCursor right count => exact prelude_next (shiftBy_next ..) s
  | sendByte value mode settle => exact prelude_next (transmit_next ..) s
  | cmdDdram caller address => exact transmit_next ..
  | cmdCgram caller address => exact transmit_next ..
  | cmdFunc caller dl n f x => exact transmit_next ..
  | cmdShift caller sc rl x => exact transmit_next ..
  | cmdDispctl caller d c b => exact transmit_next ..
  | cmdEntry caller incr shift => exact transmit_next ..
  | cmdOther caller x => exact transmit_next ..
  | nibbleEnSet data bl rs => exact ⟨_, rfl⟩
  | nibbleEnClr data bl rs => exact ⟨_, rfl⟩
  | rspOk => exact ⟨_, rfl⟩
  | rspInvalidArgument => exact ⟨_, rfl⟩
  | rspTransportFailure => exact ⟨_, rfl⟩
  | rspSequencingViolation => exact ⟨_, rfl⟩

end Sys2Proof.Machine
end

