-- ==== Sys2Proof/Laws/Queue.lean ====
section
/-! SUPPORT. What the queues of the operations hold. -/

namespace Sys2Proof.Machine

@[simp] theorem queueEvents_nil : queueEvents [] = [] := rfl
@[simp] theorem queueEvents_emit (e : Event) (q : List Item) :
    queueEvents (.emit e :: q) = e :: queueEvents q := rfl
@[simp] theorem queueEvents_enter (p : Phase) (q : List Item) :
    queueEvents (.enter p :: q) = queueEvents q := rfl
@[simp] theorem queueEvents_append (q r : List Item) :
    queueEvents (q ++ r) = queueEvents q ++ queueEvents r := List.filterMap_append

@[simp] theorem queuePhases_nil : queuePhases [] = [] := rfl
@[simp] theorem queuePhases_emit (e : Event) (q : List Item) :
    queuePhases (.emit e :: q) = queuePhases q := rfl
@[simp] theorem queuePhases_enter (p : Phase) (q : List Item) :
    queuePhases (.enter p :: q) = p :: queuePhases q := rfl
@[simp] theorem queuePhases_append (q r : List Item) :
    queuePhases (q ++ r) = queuePhases q ++ queuePhases r := List.filterMap_append

@[simp] theorem writes_nil : writes [] = [] := rfl
@[simp] theorem writes_write (b : Byte) (es : List Event) : writes (.write b :: es) = b :: writes es := rfl
@[simp] theorem writes_delay (n : Nat) (es : List Event) : writes (.delay n :: es) = writes es := rfl
@[simp] theorem writes_configure (a b c d : Nat) (es : List Event) :
    writes (.configure a b c d :: es) = writes es := rfl
@[simp] theorem writes_append (es fs : List Event) : writes (es ++ fs) = writes es ++ writes fs :=
  List.filterMap_append

@[simp] theorem delays_nil : delays [] = [] := rfl
@[simp] theorem delays_write (b : Byte) (es : List Event) : delays (.write b :: es) = delays es := rfl
@[simp] theorem delays_delay (n : Nat) (es : List Event) : delays (.delay n :: es) = n :: delays es := rfl
@[simp] theorem delays_configure (a b c d : Nat) (es : List Event) :
    delays (.configure a b c d :: es) = delays es := rfl
@[simp] theorem delays_append (es fs : List Event) : delays (es ++ fs) = delays es ++ delays fs :=
  List.filterMap_append

@[simp] theorem queueEvents_items (es : List Event) : queueEvents (items es) = es := by
  induction es with
  | nil => rfl
  | cons e es ih => simpa [items] using ih

@[simp] theorem queuePhases_items (es : List Event) : queuePhases (items es) = [] := by
  induction es with
  | nil => rfl
  | cons e es ih => simpa [items] using ih

theorem sendTrace_eq (t : CommandTable) (st : ControlState) (v : Byte) (m : Mode) (d : Nat) :
    sendTrace t st v m d =
      queueEvents (transmission (v.extractLsb' 4 4) (loNibble t st v m) st.backlightOn (isData m) d) := by
  rw [← items_sendTrace, queueEvents_items]

/-- A property of the members of a trace holds of every repetition of it. -/
theorem mem_repeated {n : Nat} {es : List Event} {e : Event} (h : e ∈ repeated n es) : e ∈ es := by
  simp only [repeated, List.mem_flatten] at h
  obtain ⟨l, hl, he⟩ := h
  rwa [List.eq_of_mem_replicate hl] at he

theorem mem_writes {b : Byte} {es : List Event} : b ∈ writes es ↔ .write b ∈ es := by
  induction es with
  | nil => simp
  | cons e es ih => cases e <;> simp [ih]

theorem mem_delays {n : Nat} {es : List Event} : n ∈ delays es ↔ .delay n ∈ es := by
  induction es with
  | nil => simp
  | cons e es ih => cases e <;> simp [ih]

/-- ReadWrite is 0 in every byte of a `sendByte`. -/
theorem sendTrace_readWrite {t : CommandTable} {st : ControlState} {v : Byte} {m : Mode} {d : Nat} {b : Byte}
    (h : .write b ∈ sendTrace t st v m d) : b.getLsbD 1 = false := by
  rw [sendTrace_eq] at h
  simp only [transmission, queueEvents_emit, queueEvents_nil, List.mem_cons, Event.write.injEq,
    reduceCtorEq, List.not_mem_nil, or_false, false_or] at h
  rcases h with h | h | h | h <;> rw [h] <;> exact nibbleByte_readWrite ..

/-- Every delay of a `sendByte` is its settle delay. -/
theorem sendTrace_delay {t : CommandTable} {st : ControlState} {v : Byte} {m : Mode} {d n : Nat}
    (h : .delay n ∈ sendTrace t st v m d) : n = d := by
  rw [sendTrace_eq] at h
  simp [transmission] at h
  exact h

theorem queuePhases_singleNibble (x : Nibble) (bl : Bool) (d : Nat) :
    queuePhases (singleNibble x bl d) = [] := rfl

theorem queuePhases_initItems (cfg : Config) (st : ControlState) :
    queuePhases (initItems cfg st) = Phase.rest .uninitialized := by
  simp [initItems, rawPulse, fullCommand, Phase.rest]

theorem initItems_readWrite {cfg : Config} {st : ControlState} {b : Byte}
    (h : b ∈ writes (queueEvents (initItems cfg st))) : b.getLsbD 1 = false := by
  simp only [initItems, rawPulse_eq, fullCommand, items_sendTrace, singleNibble, transmission,
    queueEvents_append, queueEvents_emit, queueEvents_enter, queueEvents_nil, writes_append, writes_write,
    writes_delay, writes_configure, writes_nil, List.mem_append, List.mem_cons, List.not_mem_nil,
    or_false, false_or, or_assoc] at h
  revert h
  repeat first | (rintro rfl; exact nibbleByte_readWrite ..) | refine fun h => h.elim ?_ ?_

theorem initItems_durations {cfg : Config} {st : ControlState} {n : Nat}
    (h : n ∈ delays (queueEvents (initItems cfg st))) : n ∈ Timing.durations cfg.timing := by
  simp [initItems, rawPulse_eq, fullCommand, items_sendTrace, singleNibble, transmission] at h
  simp [Timing.durations]
  omega

end Sys2Proof.Machine
end

