-- ==== Sys2Proof/Laws/Latch.lean ====
section
/-! SUPPORT. What the controller latches and takes in. -/

namespace Sys2Proof.Machine

@[simp] theorem latched_nil (p : Byte) : latched p [] = [] := rfl

@[simp] theorem latched_delay (p : Byte) (n : Nat) (es : List Event) :
    latched p (.delay n :: es) = latched p es := rfl

@[simp] theorem latched_configure (p : Byte) (a b c d : Nat) (es : List Event) :
    latched p (.configure a b c d :: es) = latched p es := rfl

/-- An enable pulse latches its nibble once, whatever stood on the lines before. -/
theorem latched_singleNibble (p : Byte) (x : Nibble) (bl : Bool) (d : Nat) (es : List Event) :
    latched p (queueEvents (singleNibble x bl d) ++ es) =
      (false, x) :: latched (nibbleByte x bl false false) es := by
  simp only [singleNibble, queueEvents_emit, queueEvents_nil, List.cons_append, List.nil_append, latched,
    nibbleByte_enable, nibbleByte_registerSelect, nibbleByte_data]
  simp

/-- A transmission latches its high nibble and then its low one. -/
theorem latched_transmission (p : Byte) (hi lo : Nibble) (bl rs : Bool) (d : Nat) (es : List Event) :
    latched p (queueEvents (transmission hi lo bl rs d) ++ es) =
      (rs, hi) :: (rs, lo) :: latched (nibbleByte lo bl false rs) es := by
  simp only [transmission, queueEvents_emit, queueEvents_nil, List.cons_append, List.nil_append, latched,
    nibbleByte_enable, nibbleByte_registerSelect, nibbleByte_data]
  simp

@[simp] theorem assembled_nil : assembled [] = [] := rfl

@[simp] theorem assembled_pair (rs rs' : Bool) (hi lo : Nibble) (ps : List (Bool × Nibble)) :
    assembled ((rs, hi) :: (rs', lo) :: ps) = (rs, hi ++ lo) :: assembled ps := rfl

theorem receptions_four (t : CommandTable) (ps : List (Bool × Nibble)) :
    receptions t .four ps = (assembled ps).map fun p => .whole p.1 p.2 := by
  cases ps <;> rfl

@[simp] theorem receptions_eight_nil (t : CommandTable) : receptions t .eight [] = [] := rfl

theorem receptions_eight_cons (t : CommandTable) (p : Bool × Nibble) (ps : List (Bool × Nibble)) :
    receptions t .eight (p :: ps) =
      .upper p.1 p.2 :: receptions t (if commitsToFour t p then .four else .eight) ps := rfl

@[simp] theorem BusWidth.after_nil (t : CommandTable) (w : BusWidth) : BusWidth.after t w [] = w := rfl

@[simp] theorem BusWidth.after_cons (t : CommandTable) (w : BusWidth) (p : Bool × Nibble)
    (ps : List (Bool × Nibble)) : BusWidth.after t w (p :: ps) = BusWidth.after t (w.next t p) ps := rfl

/-- A controller in 4-bit mode stays there. -/
theorem BusWidth.after_four (t : CommandTable) (ps : List (Bool × Nibble)) :
    BusWidth.after t .four ps = .four := by
  induction ps with
  | nil => rfl
  | cons p ps ih => exact ih

end Sys2Proof.Machine
end

