-- ==== Sys2Proof/Laws/PerInstr.lean ====
section
/-! SUPPORT. For each instruction, as syntax: its code has the width that the opcode table gives its
row, 24 bits for a request, 8 for a command or a nibble byte, 2 for a response. -/

namespace Sys2Proof.Laws

/-- The width column of the opcode table. -/
def tableWidth : Instr → Nat
  | .init | .clear | .writeChar _ | .setCursor _ _ | .setDisplay _ | .setBacklight _
  | .setCursorVisible _ | .setBlink _ | .shiftDisplay _ _ | .shiftCursor _ _ | .sendByte _ _ _ => 24
  | .cmdDdram _ _ | .cmdCgram _ _ | .cmdFunc _ _ _ _ _ | .cmdShift _ _ _ _ | .cmdDispctl _ _ _ _
  | .cmdEntry _ _ _ | .cmdOther _ _ | .nibbleEnSet _ _ _ | .nibbleEnClr _ _ _ => 8
  | .rspOk | .rspInvalidArgument | .rspTransportFailure | .rspSequencingViolation => 2

namespace TableWidth

def Statement (i : Instr) : Prop := (encode i).width = tableWidth i

theorem init : Statement .init := rfl
theorem clear : Statement .clear := rfl
theorem writeChar (ch : Byte) : Statement (.writeChar ch) := rfl
theorem setCursor (line column : Byte) : Statement (.setCursor line column) := rfl
theorem setDisplay (on : Bool) : Statement (.setDisplay on) := rfl
theorem setBacklight (on : Bool) : Statement (.setBacklight on) := rfl
theorem setCursorVisible (on : Bool) : Statement (.setCursorVisible on) := rfl
theorem setBlink (on : Bool) : Statement (.setBlink on) := rfl
theorem shiftDisplay (right : Bool) (count : Nat) : Statement (.shiftDisplay right count) := rfl
theorem shiftCursor (right : Bool) (count : Nat) : Statement (.shiftCursor right count) := rfl
theorem sendByte (value : Byte) (mode : Mode) (settle : Settle) :
    Statement (.sendByte value mode settle) := rfl
theorem cmdDdram (caller : Caller) (address : BitVec 7) : Statement (.cmdDdram caller address) := rfl
theorem cmdCgram (caller : Caller) (address : BitVec 6) : Statement (.cmdCgram caller address) := rfl
theorem cmdFunc (caller : Caller) (dl n f : Bool) (x : BitVec 2) :
    Statement (.cmdFunc caller dl n f x) := rfl
theorem cmdShift (caller : Caller) (sc rl : Bool) (x : BitVec 2) :
    Statement (.cmdShift caller sc rl x) := rfl
theorem cmdDispctl (caller : Caller) (d c b : Bool) : Statement (.cmdDispctl caller d c b) := rfl
theorem cmdEntry (caller : Caller) (incr shift : Bool) : Statement (.cmdEntry caller incr shift) := rfl
theorem cmdOther (caller : Caller) (x : BitVec 2) : Statement (.cmdOther caller x) := rfl
theorem nibbleEnSet (data : Nibble) (backlight registerSelect : Bool) :
    Statement (.nibbleEnSet data backlight registerSelect) := rfl
theorem nibbleEnClr (data : Nibble) (backlight registerSelect : Bool) :
    Statement (.nibbleEnClr data backlight registerSelect) := rfl
theorem rspOk : Statement .rspOk := rfl
theorem rspInvalidArgument : Statement .rspInvalidArgument := rfl
theorem rspTransportFailure : Statement .rspTransportFailure := rfl
theorem rspSequencingViolation : Statement .rspSequencingViolation := rfl

end TableWidth

end Sys2Proof.Laws
end

