-- ==== Sys2Proof/Laws/Step.lean ====
section
/-! SUPPORT. What one step can do, said once. -/

namespace Sys2Proof.Machine

variable {s t : State}

theorem step_reset (h : s.resetIn = true) : step s = .next s.blockReset := by
  simp [step, advance, h, perform]

theorem step_idle (hr : s.resetIn = false) (hb : s.busy = false) (hi : s.input = []) : step s = .next s := by
  simp [step, advance, hr, hb, advanceIdle, hi, perform]

theorem step_presented {c : Code} {cs : List Code} (h : Presented s c cs) :
    step s = runCode c (s.setInput cs) := by
  obtain ⟨hb, hr, hi⟩ := h
  simp [step, advance, hr, hb, advanceIdle, hi, perform]

theorem step_complete (hr : s.resetIn = false) (hb : s.busy = true) (hq : s.queue = []) :
    step s = .next (s.respond (completion s.tf)) := by
  simp only [step, advance, hr, hb, advanceBusy, hq, perform, Bool.false_eq_true, if_false, if_true]
  cases s.tf <;> rfl

theorem step_enter {p : Phase} {q : List Item} (hr : s.resetIn = false) (hb : s.busy = true)
    (hq : s.queue = .enter p :: q) : step s = .next ((s.setQueue q).enterPhase p) := by
  simp [step, advance, hr, hb, advanceBusy, hq, perform]

theorem step_stalled {e : Event} {q : List Item} (hr : s.resetIn = false) (hb : s.busy = true)
    (hq : s.queue = .emit e :: q) (hs : s.stalled = true) : step s = .next s := by
  simp [step, advance, hr, hb, advanceBusy, hq, hs, perform]

theorem step_delay {n : Nat} {q : List Item} (hr : s.resetIn = false) (hb : s.busy = true)
    (hq : s.queue = .emit (.delay n) :: q) (hs : s.stalled = false) :
    step s = .next ((s.setQueue q).emit (.delay n)) := by
  simp [step, advance, hr, hb, advanceBusy, hq, hs, perform, emitHead]

theorem step_configure {a b c d : Nat} {q : List Item} (hr : s.resetIn = false) (hb : s.busy = true)
    (hq : s.queue = .emit (.configure a b c d) :: q) (hs : s.stalled = false) :
    step s = .next ((s.setQueue q).emit (.configure a b c d)) := by
  simp [step, advance, hr, hb, advanceBusy, hq, hs, perform, emitHead]

theorem step_write_run {b : Byte} {q : List Item} (hr : s.resetIn = false) (hb : s.busy = true)
    (hq : s.queue = .emit (.write b) :: q) (hs : s.stalled = false) :
    step s = runCode (.nib b) (s.setQueue q) := by
  simp [step, advance, hr, hb, advanceBusy, hq, hs, perform, emitHead]

theorem decodeNibble_set {b : Byte} (h1 : b.getLsbD 1 = false) (h2 : b.getLsbD 2 = true) :
    decode (.nib b) = .ok (.nibbleEnSet (b.extractLsb' 4 4) (b.getLsbD 3) (b.getLsbD 0)) := by
  simp only [decode, decodeNibble, h1, h2, if_true, Bool.false_eq_true, if_false]

theorem decodeNibble_clr {b : Byte} (h1 : b.getLsbD 1 = false) (h2 : b.getLsbD 2 = false) :
    decode (.nib b) = .ok (.nibbleEnClr (b.extractLsb' 4 4) (b.getLsbD 3) (b.getLsbD 0)) := by
  simp only [decode, decodeNibble, h1, h2, Bool.false_eq_true, if_false]

theorem decodeNibble_error {b : Byte} (h : b.getLsbD 1 = true) :
    decode (.nib b) = .error (.readWriteSet b) := by
  simp only [decode, decodeNibble, h, if_true]

/-- A byte with ReadWrite clear is the nibble byte of its fields. -/
theorem nibbleByte_of_fields (b : Byte) (h : b.getLsbD 1 = false) :
    nibbleByte (b.extractLsb' 4 4) (b.getLsbD 3) (b.getLsbD 2) (b.getLsbD 0) = b := by
  revert b; decide

/-- Running a nibble byte with ReadWrite clear writes exactly that byte. -/
theorem runCode_nib {b : Byte} (h : b.getLsbD 1 = false) (s : State) :
    runCode (.nib b) s = .next (s.emitWrite b (Config.transportAnswer s.cfg.identity s.draws)) := by
  have hb := nibbleByte_of_fields b h
  cases h2 : b.getLsbD 2 with
  | true =>
    rw [h2] at hb
    simp only [runCode, decodeNibble_set h h2, exec, execNibbleEnSet, writeByte, hb]
  | false =>
    rw [h2] at hb
    simp only [runCode, decodeNibble_clr h h2, exec, execNibbleEnClr, writeByte, hb]

theorem runCode_nib_fault {b : Byte} (h : b.getLsbD 1 = true) (s : State) :
    runCode (.nib b) s = .fault (.readWriteBitSet b) := by
  simp only [runCode, decodeNibble_error h, rejectCode]

theorem step_write {b : Byte} {q : List Item} (hr : s.resetIn = false) (hb : s.busy = true)
    (hq : s.queue = .emit (.write b) :: q) (hs : s.stalled = false) (hw : b.getLsbD 1 = false) :
    step s = .next ((s.setQueue q).emitWrite b (Config.transportAnswer s.cfg.identity s.draws)) := by
  rw [step_write_run hr hb hq hs, runCode_nib hw]; rfl

/-- A code at the input: it is rejected as a reserved request, or its instruction runs. -/
theorem runCode_cases {c : Code} (h : runCode c s = .next t) :
    (∃ i, decode c = .ok i ∧ exec i s = .next t) ∨ t = s.respond .invalidArgument := by
  unfold runCode at h
  split at h
  · exact .inl ⟨_, ‹_›, h⟩
  · unfold rejectCode at h
    split at h
    · cases h; exact .inr rfl
    · cases h

/-- Everything a step that answers a next state can have done: a reset; nothing; the completion of an
operation; a change of phase; the emission of the head event; the taking of a code. -/
theorem step_cases (h : step s = .next t) :
    (s.resetIn = true ∧ t = s.blockReset) ∨
    (s.resetIn = false ∧ t = s ∧ (s.busy = false ∧ s.input = [] ∨ s.busy = true ∧ s.stalled = true)) ∨
    (s.resetIn = false ∧ s.busy = true ∧ s.queue = [] ∧ t = s.respond (completion s.tf)) ∨
    (∃ p q, s.resetIn = false ∧ s.busy = true ∧ s.queue = .enter p :: q ∧ t = (s.setQueue q).enterPhase p) ∨
    (∃ e q, s.resetIn = false ∧ s.busy = true ∧ s.stalled = false ∧ s.queue = .emit e :: q ∧
      (t = (s.setQueue q).emit e ∧ (∀ b, e ≠ .write b) ∨
        ∃ b, e = .write b ∧ b.getLsbD 1 = false ∧
          t = (s.setQueue q).emitWrite b (Config.transportAnswer s.cfg.identity s.draws))) ∨
    (∃ c cs, Presented s c cs ∧
      ((∃ i, decode c = .ok i ∧ exec i (s.setInput cs) = .next t) ∨
        t = (s.setInput cs).respond .invalidArgument)) := by
  cases hr : s.resetIn with
  | true => rw [step_reset hr] at h; cases h; exact .inl ⟨rfl, rfl⟩
  | false =>
    right
    cases hb : s.busy with
    | false =>
      cases hi : s.input with
      | nil => rw [step_idle hr hb hi] at h; cases h; exact .inl ⟨rfl, rfl, .inl ⟨rfl, rfl⟩⟩
      | cons c cs =>
        have hp : Presented s c cs := ⟨hb, hr, hi⟩
        rw [step_presented hp] at h
        exact .inr (.inr (.inr (.inr ⟨c, cs, hp, runCode_cases h⟩)))
    | true =>
      match hq : s.queue with
      | [] => rw [step_complete hr hb hq] at h; cases h; exact .inr (.inl ⟨rfl, rfl, rfl, rfl⟩)
      | .enter p :: q =>
        rw [step_enter hr hb hq] at h; cases h
        exact .inr (.inr (.inl ⟨p, q, rfl, rfl, rfl, rfl⟩))
      | .emit e :: q =>
        cases hs : s.stalled with
        | true =>
          rw [step_stalled hr hb hq hs] at h; cases h
          exact .inl ⟨rfl, rfl, .inr ⟨rfl, rfl⟩⟩
        | false =>
          refine .inr (.inr (.inr (.inl ⟨e, q, rfl, rfl, rfl, rfl, ?_⟩)))
          cases e with
          | delay n => rw [step_delay hr hb hq hs] at h; cases h; exact .inl ⟨rfl, by simp⟩
          | configure a b c d =>
            rw [step_configure hr hb hq hs] at h; cases h; exact .inl ⟨rfl, by simp⟩
          | write b =>
            cases hw : b.getLsbD 1 with
            | true => rw [step_write_run hr hb hq hs, runCode_nib_fault hw] at h; cases h
            | false =>
              rw [step_write hr hb hq hs hw] at h; cases h
              exact .inr ⟨b, rfl, hw, rfl⟩

/-! ### Several steps -/

theorem runSteps_succ {n : Nat} (h : step s = .next t) : runSteps (n + 1) s = runSteps n t := by
  rw [runSteps, h]

theorem run_of_next (M : Host.Core) {n : Nat} {a b : M.State} (h : M.step a = .next b) :
    M.run (n + 1) a = M.run n b := by
  simp only [Host.Core.run, h]

theorem run_of_fault (M : Host.Core) {n : Nat} {a : M.State} {r : M.Fault} (h : M.step a = .fault r) :
    M.run (n + 1) a = .fault r := by
  simp only [Host.Core.run, h]

theorem run_of_refused (M : Host.Core) {n : Nat} {a : M.State} {r : M.Refusal} (h : M.step a = .refused r) :
    M.run (n + 1) a = .refused r := by
  simp only [Host.Core.run, h]

/-- The steps of a claim are the steps of the host's machine. -/
theorem runSteps_eq_run (n : Nat) (s : State) : runSteps n s = Host.Core.run Sys2Proof.core n s := by
  induction n generalizing s with
  | zero => rfl
  | succ n ih =>
    cases hs : step s with
    | next t => exact (runSteps_succ hs).trans ((ih t).trans (run_of_next Sys2Proof.core hs).symm)
    | fault r => exact (by rw [runSteps, hs] : runSteps (n + 1) s = .fault r).trans (run_of_fault Sys2Proof.core hs).symm
    | refused r =>
      exact (by rw [runSteps, hs] : runSteps (n + 1) s = .refused r).trans (run_of_refused Sys2Proof.core hs).symm

theorem runSteps_add {m : Nat} (n : Nat) (h : runSteps m s = .next t) : runSteps (m + n) s = runSteps n t := by
  induction m generalizing s with
  | zero => cases h; rw [Nat.zero_add]
  | succ m ih =>
    cases hs : step s with
    | next u =>
      rw [runSteps_succ hs] at h
      rw [Nat.succ_add, runSteps_succ hs]
      exact ih h
    | fault r => rw [runSteps, hs] at h; cases h
    | refused r => rw [runSteps, hs] at h; cases h

end Sys2Proof.Machine
end

