-- ==== Sys2Proof/Tests/Slice0.lean ====
section
/-! SUPPORT. Tests. The expected values come from 95_test_vectors.md and from the encodings of
30_encoding.md, never from the model. Then one witness for the hypotheses of each statement. -/

namespace Sys2Proof.Tests

open Sys2Proof Sys2Proof.Machine

/-! ### Helpers -/

/-- The default parameters with concrete names in place of the free ones. -/
def cfg : Config := { Config.standard with identity := ⟨0x27#7, 7, 4, 5, 100000⟩ }

/-- Flags in the order of 95_test_vectors.md: ID C S D B BL SC RL. -/
def flags (i c s d b bl sc rl : Bool) : ControlState :=
  { cursorDirection := i, cursorVisible := c, displayShiftOnWrite := s, displayOn := d, blinking := b,
    backlightOn := bl, shiftTargetIsDisplay := sc, shiftDirectionRight := rl }

/-- The reset flags of 95_test_vectors.md. -/
def resetFlags : ControlState := flags true false false true false true false false

/-- `D=0 BL=0`, the rest as reset. -/
def darkFlags : ControlState := flags true false false false false false false false

/-- An idle block in `Ready`. -/
def readyAt (st : ControlState) : State := { State.reset with cfg := cfg, st := st, phase := .ready }

/-- An idle block straight after reset. -/
def fresh : State := { State.reset with cfg := cfg }

/-- The same, not strict. -/
def lax : State := { fresh with cfg := { cfg with strict := false } }

/-- A block that runs an operation. -/
def running (q : List Item) : State := { readyAt resetFlags with busy := true, queue := q }

/-- The flags and the trace of an accepted operation. -/
def sent : Host.Outcome State Fault Refusal → Option (ControlState × List Event)
  | .next t => if t.busy then some (t.st, queueEvents t.queue) else none
  | .fault _ => none
  | .refused _ => none

/-- The response of a step that leaves the block idle. -/
def answered : Host.Outcome State Fault Refusal → Option RspCode
  | .next t => if t.busy then none else some t.rsp
  | .fault _ => none
  | .refused _ => none

/-- What a step has emitted. -/
def emitted : Host.Outcome State Fault Refusal → Option (List Event)
  | .next t => some t.trace
  | .fault _ => none
  | .refused _ => none

/-- Writes with the delay `d` after each. -/
def wire (d : Nat) (bs : List Byte) : List Event := bs.flatMap fun b => [.write b, .delay d]

def fastHost : Caller := ⟨.fast, .host⟩
def slowHost : Caller := ⟨.slow, .host⟩
def fastInit : Caller := ⟨.fast, .init⟩

/-! ### Well-formedness: the one check, a shift count of eight bits (R59) -/

theorem test_wf_display_refused : Instr.wellFormed (.shiftDisplay true 256) = false := by decide
theorem test_wf_cursor_refused : Instr.wellFormed (.shiftCursor false 256) = false := by decide
theorem test_wf_accepted :
    Instr.wellFormed (.shiftDisplay true 255) = true ∧ Instr.wellFormed (.shiftCursor false 0) = true := by
  decide

/-! ### Decoding, one word written out for each row -/

-- request words: the syntax table of R63, and 95_test_vectors.md
theorem test_decode_init : decode (.req 0b00000000_00000000_00000000#24) = .ok .init := by decide
theorem test_decode_clear : decode (.req 0b00000001_00000000_00000000#24) = .ok .clear := by decide
theorem test_decode_write_char : decode (.req 0x020041#24) = .ok (.writeChar 0x41#8) := by decide
theorem test_decode_set_cursor : decode (.req 0x03010F#24) = .ok (.setCursor 1#8 15#8) := by decide
theorem test_decode_set_display : decode (.req 0x040001#24) = .ok (.setDisplay true) := by decide
theorem test_decode_set_backlight : decode (.req 0x050000#24) = .ok (.setBacklight false) := by decide
theorem test_decode_set_cursor_visible :
    decode (.req 0x060001#24) = .ok (.setCursorVisible true) := by decide
-- V49: bit 0 is 0, the upper bits are ignored
theorem test_decode_set_blink : decode (.req 0x0700FE#24) = .ok (.setBlink false) := by decide
theorem test_decode_shift_display : decode (.req 0x080103#24) = .ok (.shiftDisplay true 3) := by decide
theorem test_decode_shift_cursor : decode (.req 0x090002#24) = .ok (.shiftCursor false 2) := by decide
-- V22, V29
theorem test_decode_send_byte :
    decode (.req 0x0A0202#24) = .ok (.sendByte 0x02#8 .command .slow) ∧
    decode (.req 0x0A0310#24) = .ok (.sendByte 0x10#8 .data .slow) := by decide
-- V58, V59
theorem test_decode_reserved :
    decode (.req 0x0B0000#24) = .error (.reservedOpcode 0x0B#8) ∧
    decode (.req 0xFF1234#24) = .error (.reservedOpcode 0xFF#8) := by decide

-- command bytes: the layouts of R54
theorem test_decode_ddram :
    decode (.cmd 0b1_1000101#8 fastHost) = .ok (.cmdDdram fastHost 0b1000101#7) := by decide
theorem test_decode_cgram :
    decode (.cmd 0b01_111110#8 fastHost) = .ok (.cmdCgram fastHost 0b111110#6) := by decide
theorem test_decode_func :
    decode (.cmd 0b001_0_1_0_01#8 fastInit) = .ok (.cmdFunc fastInit false true false 0b01#2) := by decide
theorem test_decode_shift :
    decode (.cmd 0b0001_1_0_10#8 fastHost) = .ok (.cmdShift fastHost true false 0b10#2) := by decide
theorem test_decode_dispctl :
    decode (.cmd 0b00001_1_0_1#8 fastHost) = .ok (.cmdDispctl fastHost true false true) := by decide
theorem test_decode_entry :
    decode (.cmd 0b000001_1_0#8 fastHost) = .ok (.cmdEntry fastHost true false) := by decide
theorem test_decode_other :
    decode (.cmd 0b000000_10#8 slowHost) = .ok (.cmdOther slowHost 0b10#2) := by decide

-- nibble bytes: the layout of R50, and S8
theorem test_decode_nibble_set :
    decode (.nib 0b1010_1_1_0_1#8) = .ok (.nibbleEnSet 0b1010#4 true true) := by decide
theorem test_decode_nibble_clr :
    decode (.nib 0b0101_1_0_0_1#8) = .ok (.nibbleEnClr 0b0101#4 true true) := by decide
theorem test_decode_nibble_read :
    decode (.nib 0b0101_1_0_1_1#8) = .error (.readWriteSet 0x5B#8) := by decide

-- result codes: R60
theorem test_decode_responses :
    decode (.rsp 0#2) = .ok .rspOk ∧ decode (.rsp 1#2) = .ok .rspInvalidArgument ∧
    decode (.rsp 2#2) = .ok .rspTransportFailure ∧ decode (.rsp 3#2) = .ok .rspSequencingViolation := by
  decide

-- the opcode table's words, by width (log 8)
theorem test_table_words :
    decodeTableWord 24 0x020041 = some (.writeChar 0x41#8) ∧
    decodeTableWord 8 0xC5 = some (.cmdDdram fastHost 0x45#7) ∧
    decodeTableWord 2 3 = some .rspSequencingViolation ∧ decodeTableWord 24 0x0B0000 = none := by decide

/-! ### The requests -/

-- V31 and V30: the bytes written, and the sum of the delays
theorem test_init_again : answered (exec .init (readyAt darkFlags)) = some 3#2 := by decide
theorem test_init_bytes :
    (sent (exec .init fresh)).map (fun r => (r.1, writes r.2, (delays r.2).sum)) =
      some (resetFlags,
        [0x3C#8, 0x38#8, 0x3C#8, 0x38#8, 0x3C#8, 0x38#8, 0x2C#8, 0x28#8, 0x0C#8, 0x08#8, 0x6C#8, 0x68#8,
         0x2C#8, 0x28#8, 0x8C#8, 0x88#8, 0x0C#8, 0x08#8, 0xCC#8, 0xC8#8, 0x0C#8, 0x08#8, 0x1C#8, 0x18#8],
        54800) := by decide
-- V34
theorem test_clear :
    sent (exec .clear (readyAt darkFlags)) = some (darkFlags, wire 2000 [0x04#8, 0x00#8, 0x14#8, 0x10#8]) := by
  decide
-- V35, V56
theorem test_write_char :
    sent (exec (.writeChar 0x41#8) (readyAt resetFlags)) =
      some (resetFlags, wire 80 [0x4D#8, 0x49#8, 0x1D#8, 0x19#8]) := by decide
theorem test_write_char_early : answered (exec (.writeChar 0x41#8) fresh) = some 3#2 := by decide
-- S2
theorem test_set_cursor :
    sent (exec (.setCursor 1#8 5#8) (readyAt resetFlags)) =
      some (resetFlags, wire 80 [0xCC#8, 0xC8#8, 0x5C#8, 0x58#8]) := by decide
theorem test_set_cursor_rejects :
    answered (exec (.setCursor 0#8 16#8) (readyAt resetFlags)) = some 1#2 ∧
    answered (exec (.setCursor 2#8 0#8) (readyAt resetFlags)) = some 1#2 := by decide
-- V41
theorem test_set_display :
    sent (exec (.setDisplay false) (readyAt (flags true true false true false true false false))) =
      some (flags true true false false false true false false, wire 80 [0x0C#8, 0x08#8, 0xAC#8, 0xA8#8]) := by
  decide
-- V43, V44
theorem test_set_backlight_off :
    sent (exec (.setBacklight false) (readyAt resetFlags)) =
      some (darkFlags, wire 80 [0x04#8, 0x00#8, 0x84#8, 0x80#8]) := by decide
theorem test_set_backlight_on :
    sent (exec (.setBacklight true) (readyAt (flags true false false false false true false false))) =
      some (resetFlags, wire 80 [0x0C#8, 0x08#8, 0xCC#8, 0xC8#8]) := by decide
-- V46
theorem test_set_cursor_visible :
    sent (exec (.setCursorVisible true) (readyAt resetFlags)) =
      some (flags true true false true false true false false, wire 80 [0x0C#8, 0x08#8, 0xEC#8, 0xE8#8]) := by
  decide
-- V48
theorem test_set_blink :
    sent (exec (.setBlink true) (readyAt (flags true true false true false true false false))) =
      some (flags true true false true true true false false, wire 80 [0x0C#8, 0x08#8, 0xFC#8, 0xF8#8]) := by
  decide
-- V50, and a count of zero (S5)
theorem test_shift_display :
    sent (exec (.shiftDisplay false 1) (readyAt resetFlags)) =
      some (flags true false false true false true true false, wire 80 [0x1C#8, 0x18#8, 0x8C#8, 0x88#8]) := by
  decide
theorem test_shift_display_none :
    sent (exec (.shiftDisplay true 0) (readyAt resetFlags)) = some (resetFlags, []) := by decide
-- V53, V54
theorem test_shift_cursor :
    sent (exec (.shiftCursor false 2) (readyAt (flags true false false true false true true true))) =
      some (resetFlags,
        wire 80 [0x1C#8, 0x18#8, 0x0C#8, 0x08#8, 0x1C#8, 0x18#8, 0x0C#8, 0x08#8]) := by decide
theorem test_shift_cursor_none :
    sent (exec (.shiftCursor false 0) (readyAt (flags true false false true false true true true))) =
      some (flags true false false true false true true true, []) := by decide
-- V24, V29 and V26, V27
theorem test_send_byte :
    sent (exec (.sendByte 0x0F#8 .command .fast) (readyAt resetFlags)) =
      some (resetFlags, wire 80 [0x0C#8, 0x08#8, 0xFC#8, 0xF8#8]) ∧
    sent (exec (.sendByte 0x10#8 .data .slow) (readyAt resetFlags)) =
      some (resetFlags, wire 2000 [0x1D#8, 0x19#8, 0x0D#8, 0x09#8]) := by decide
theorem test_send_byte_rejects :
    answered (exec (.sendByte 0x40#8 .command .fast) (readyAt resetFlags)) = some 1#2 ∧
    answered (exec (.sendByte 0x28#8 .command .fast) (readyAt resetFlags)) = some 1#2 := by decide
-- V57: sequencing wins over the operand; V63: not strict
theorem test_sequencing_first : answered (exec (.setCursor 2#8 0#8) fresh) = some 3#2 := by decide
theorem test_not_strict :
    sent (exec (.writeChar 0x41#8) lax) =
      some (resetFlags, wire 80 [0x4D#8, 0x49#8, 0x1D#8, 0x19#8]) := by decide

/-! ### Command bytes (R53, R54, R73, R74) -/

-- V17
theorem test_cmd_ddram :
    sent (exec (.cmdDdram fastHost 0x45#7) (readyAt resetFlags)) =
      some (resetFlags, wire 80 [0xCC#8, 0xC8#8, 0x5C#8, 0x58#8]) := by decide
-- V16, from both contexts
theorem test_cmd_cgram :
    answered (exec (.cmdCgram fastHost 0x00#6) (readyAt resetFlags)) = some 1#2 ∧
    answered (exec (.cmdCgram fastInit 0x3F#6) (readyAt resetFlags)) = some 1#2 := by decide
-- V15: 0x28 from the host and in init context (its bytes stand in V30)
theorem test_cmd_func_host :
    answered (exec (.cmdFunc fastHost false true false 0#2) (readyAt resetFlags)) = some 1#2 := by decide
theorem test_cmd_func_init :
    sent (exec (.cmdFunc fastInit false true false 0#2) (readyAt resetFlags)) =
      some (resetFlags, wire 80 [0x2C#8, 0x28#8, 0x8C#8, 0x88#8]) := by decide
-- 2.2: with SC=1 RL=0, 0x10 becomes 0x18
theorem test_cmd_shift :
    sent (exec (.cmdShift fastHost false false 0#2) (readyAt (flags true false false true false true true false))) =
      some (flags true false false true false true true false, wire 80 [0x1C#8, 0x18#8, 0x8C#8, 0x88#8]) := by
  decide
-- V11: 0x09 becomes 0x0D
theorem test_cmd_dispctl :
    sent (exec (.cmdDispctl fastHost false false true) (readyAt resetFlags)) =
      some (resetFlags, wire 80 [0x0C#8, 0x08#8, 0xDC#8, 0xD8#8]) := by decide
-- V25: 0x07 stays 0x07
theorem test_cmd_entry :
    sent (exec (.cmdEntry fastHost true true) (readyAt resetFlags)) =
      some (resetFlags, wire 80 [0x0C#8, 0x08#8, 0x7C#8, 0x78#8]) := by decide
-- V22
theorem test_cmd_other :
    sent (exec (.cmdOther slowHost 0b10#2) (readyAt resetFlags)) =
      some (resetFlags, wire 2000 [0x0C#8, 0x08#8, 0x2C#8, 0x28#8]) := by decide

/-! ### Nibble bytes and result codes -/

-- S8: 0xA5 in Data mode
theorem test_nibble_set : emitted (exec (.nibbleEnSet 0xA#4 true true) fresh) = some [.write 0xAD#8] := by
  decide
theorem test_nibble_clr : emitted (exec (.nibbleEnClr 0x5#4 true true) fresh) = some [.write 0x59#8] := by
  decide
theorem test_rsp_ok : answered (exec .rspOk (running [])) = some 0#2 := by decide
theorem test_rsp_invalid_argument : answered (exec .rspInvalidArgument (running [])) = some 1#2 := by decide
theorem test_rsp_transport_failure : answered (exec .rspTransportFailure (running [])) = some 2#2 := by decide
theorem test_rsp_sequencing_violation :
    answered (exec .rspSequencingViolation (running [])) = some 3#2 := by decide

/-! ### One step -/

-- a table word, placed where the next step takes it: P4 line 1 and V58, from the state after reset
theorem test_fetch_request : answered (step (State.reset.withFetchWord 24 0x020041)) = some 3#2 := by decide
theorem test_fetch_reserved : answered (step (State.reset.withFetchWord 24 0x0B0000)) = some 1#2 := by decide
theorem test_fetch_command :
    sent (step (State.reset.withFetchWord 8 0x02)) =
      some (resetFlags, wire 80 [0x0C#8, 0x08#8, 0x2C#8, 0x28#8]) := by decide
-- R119: the accumulated failure decides at completion
theorem test_completion :
    answered (step { running [] with tf := true }) = some 2#2 ∧ answered (step (running [])) = some 0#2 := by
  decide
-- R21: a request presented while busy is held
theorem test_held :
    emitted (step { running [.emit (.delay 80)] with input := [.req 0x010000#24] }) = some [.delay 80] := by
  decide
-- P1: the display receives 0x83
theorem test_received :
    (sent (exec (.setCursor 0#8 3#8) (readyAt resetFlags))).map (fun r => received r.2) =
      some [(false, 0x83#8)] := by decide
-- V30: the nibbles of INIT, and the bytes behind the bar
theorem test_init_taken_in :
    (sent (exec .init fresh)).map (fun r => receptions cfg.table .eight (latched 0#8 r.2)) =
      some [.upper false 0x3#4, .upper false 0x3#4, .upper false 0x3#4, .upper false 0x2#4,
        .whole false 0x06#8, .whole false 0x28#8, .whole false 0x0C#8, .whole false 0x01#8] := by decide
-- R95: the first result that is not OK
theorem test_string_result :
    stringResult [0#2, 2#2, 3#2] = 2#2 ∧ stringResult [0#2, 0#2] = 0#2 ∧ stringResult [] = 0#2 := by decide

/-! ### Witnesses: the hypotheses of each statement can be met -/

theorem readyAt_tabled (st : ControlState) : Tabled (readyAt st).cfg := ⟨rfl, rfl⟩
theorem readyAt_runnable (st : ControlState) : Runnable (readyAt st) := fun _ => rfl
theorem lax_runnable : Runnable lax := by intro h; cases h

/-- A running operation at a write, at a delay, at a change of phase and at its end, and an idle block. -/
theorem running_inv : Inv (running [.emit (.write 0x3C#8), .emit (.delay 80)]) :=
  ⟨by decide, by decide, by decide, by decide⟩

theorem fresh_inv : Inv fresh := ⟨by decide, by decide, by decide, by decide⟩

theorem initialising_inv :
    Inv { fresh with phase := .cleared, busy := true, queue := [.enter .ready] } :=
  ⟨by decide, by decide, by decide, by decide⟩

theorem witness_ResetPutsEveryElementAtItsValue :
    (∃ s : State, s.resetIn = true ∧ s.busy = true ∧ s.input = []) ∧
    ∃ t : State, fresh.busy = false ∧ exec .init fresh = .next t ∧ t.busy = true :=
  ⟨⟨{ running [.emit (.delay 80)] with resetIn := true }, rfl, rfl, rfl⟩, _, rfl, rfl, rfl⟩

theorem witness_EveryStepKeepsTheInv :
    ∃ t, Inv { fresh with phase := .cleared, busy := true, queue := [.enter .ready] } ∧
      step { fresh with phase := .cleared, busy := true, queue := [.enter .ready] } = .next t :=
  ⟨_, initialising_inv, rfl⟩

theorem witness_NoStepStopsTheBlock :
    ∃ s : State, Inv s ∧ s.input = [.req 0xFF1234#24, .nib 0xFD#8, .cmd 0x40#8 fastHost, .rsp 1#2] ∧
      ∀ c ∈ s.input, Code.legal c = true :=
  ⟨{ fresh with input := [.req 0xFF1234#24, .nib 0xFD#8, .cmd 0x40#8 fastHost, .rsp 1#2] },
    ⟨by decide, by decide, by decide, by decide⟩, rfl, by decide⟩

theorem witness_StepRunsTheDecodedInstruction :
    (∃ (s : State) (c : Code) (cs : List Code) (i : Instr), Presented s c cs ∧ decode c = .ok i) ∧
    (∃ (s : State) (b : Byte) (q : List Item) (i : Instr),
      s.resetIn = false ∧ s.busy = true ∧ s.stalled = false ∧ s.queue = .emit (.write b) :: q ∧
      decode (.nib b) = .ok i) ∧
    (∃ (s : State) (i : Instr),
      s.resetIn = false ∧ s.busy = true ∧ s.queue = [] ∧ s.tf = true ∧
      decode (.rsp (if s.tf then 2#2 else 0#2)) = .ok i) ∧
    (∃ (s : State) (i : Instr),
      s.resetIn = false ∧ s.busy = true ∧ s.queue = [] ∧ s.tf = false ∧
      decode (.rsp (if s.tf then 2#2 else 0#2)) = .ok i) :=
  ⟨⟨{ fresh with input := [.req 0x000000#24] }, _, _, .init, ⟨rfl, rfl, rfl⟩, by decide⟩,
    ⟨running [.emit (.write 0x3C#8)], _, _, .nibbleEnSet 0x3#4 true false, rfl, rfl, rfl, rfl, by decide⟩,
    ⟨{ running [] with tf := true }, .rspTransportFailure, rfl, rfl, rfl, rfl, by decide⟩,
    ⟨running [], .rspOk, rfl, rfl, rfl, rfl, by decide⟩⟩

theorem witness_DecodeOfEncodeIsTheInstruction :
    Instr.wellFormed (.shiftDisplay true 255) = true ∧ Instr.wellFormed (.cmdCgram fastInit 0x3F#6) = true ∧
    Instr.wellFormed (.nibbleEnSet 0xF#4 true true) = true ∧ Instr.wellFormed .rspOk = true := by decide

theorem witness_EncodeOfDecodedIsTheCode :
    decode (.cmd 0x1F#8 fastHost) = .ok (.cmdShift fastHost true true 0b11#2) ∧
    (∀ w : ReqWord, Code.cmd 0x1F#8 fastHost ≠ .req w) ∧
    decode (.req 0x0900FF#24) = .ok (.shiftCursor false 255) :=
  ⟨by decide, (by intro w h; cases h), by decide⟩

theorem witness_RequestWordsDecodeAsTabled :
    0x0B ≤ (0x0B#8).toNat ∧ 0x0B ≤ (0xFF#8).toNat ∧ ¬0x0B ≤ (0x0A#8).toNat := by decide

theorem witness_ShadowBitsGoIntoTheLowNibble :
    (0x20 ≤ (0x20#8).toNat ∨ (0x20#8).toNat ≤ 0x03) ∧ (0x20 ≤ (0x03#8).toNat ∨ (0x03#8).toNat ≤ 0x03) ∧
    (0x10 ≤ (0x10#8).toNat ∧ (0x10#8).toNat ≤ 0x1F) ∧ (0x10 ≤ (0x1F#8).toNat ∧ (0x1F#8).toNat ≤ 0x1F) ∧
    (0x08 ≤ (0x08#8).toNat ∧ (0x08#8).toNat ≤ 0x0F) ∧ (0x08 ≤ (0x0F#8).toNat ∧ (0x0F#8).toNat ≤ 0x0F) ∧
    (0x04 ≤ (0x04#8).toNat ∧ (0x04#8).toNat ≤ 0x07) ∧ (0x04 ≤ (0x07#8).toNat ∧ (0x07#8).toNat ≤ 0x07) := by
  decide

theorem witness_FamilyGuardRejectsOrSends :
    Tabled (readyAt resetFlags).cfg ∧ Runnable (readyAt resetFlags) ∧
    (0x40 ≤ (0x40#8).toNat ∧ (0x40#8).toNat ≤ 0x7F) ∧ (0x40 ≤ (0x7F#8).toNat ∧ (0x7F#8).toNat ≤ 0x7F) ∧
    (0x20 ≤ (0x20#8).toNat ∧ (0x20#8).toNat ≤ 0x3F ∧ fastHost.ctx = .host) ∧
    (0x20 ≤ (0x3F#8).toNat ∧ (0x3F#8).toNat ≤ 0x3F ∧ fastHost.ctx = .host) ∧
    (∀ v ∈ [0x1F#8, 0x80#8], ¬(0x40 ≤ v.toNat ∧ v.toNat ≤ 0x7F ∨
      0x20 ≤ v.toNat ∧ v.toNat ≤ 0x3F ∧ fastHost.ctx = .host)) ∧
    ¬(0x40 ≤ (0x28#8).toNat ∧ (0x28#8).toNat ≤ 0x7F ∨
      0x20 ≤ (0x28#8).toNat ∧ (0x28#8).toNat ≤ 0x3F ∧ fastInit.ctx = .host) :=
  ⟨readyAt_tabled _, readyAt_runnable _, by decide, by decide, by decide, by decide, by decide, by decide⟩

theorem witness_ControllerReassemblesTheEffectiveByte :
    (0x20 ≤ (0x20#8).toNat ∨ (0x20#8).toNat ≤ 0x03) ∧ (0x20 ≤ (0x03#8).toNat ∨ (0x03#8).toNat ≤ 0x03) := by
  decide

/-- The premises of every statement about a request that may run: CLEAR, SET_DISPLAY, SET_BACKLIGHT,
SET_CURSOR_VISIBLE, SET_BLINK, WRITE_CHAR and SEND_BYTE as the command byte, strict in `Ready` and not
strict before INIT. -/
theorem witness_requests_that_may_run :
    (∃ s : State, Tabled s.cfg ∧ Runnable s ∧ s.cfg.strict = true) ∧
    ∃ s : State, Tabled s.cfg ∧ Runnable s ∧ s.cfg.strict = false ∧ s.phase = .uninitialized :=
  ⟨⟨readyAt darkFlags, readyAt_tabled _, readyAt_runnable _, rfl⟩, lax, ⟨rfl, rfl⟩, lax_runnable, rfl, rfl⟩

theorem witness_SetCursorSendsTheAddressOrRejects :
    Tabled (readyAt resetFlags).cfg ∧ Runnable (readyAt resetFlags) ∧
    ((0#8).toNat ≤ 1 ∧ (0#8).toNat ≤ 15) ∧ ((1#8).toNat ≤ 1 ∧ (15#8).toNat ≤ 15) ∧
    (1 < (2#8).toNat ∨ 15 < (0#8).toNat) ∧ (1 < (0#8).toNat ∨ 15 < (16#8).toNat) :=
  ⟨readyAt_tabled _, readyAt_runnable _, by decide, by decide, by decide, by decide⟩

theorem witness_shifts_send_count_commands :
    Tabled (readyAt resetFlags).cfg ∧ Runnable (readyAt resetFlags) ∧ 0 < 1 ∧ 0 < 255 ∧
    255 < 2 ^ (readyAt resetFlags).cfg.countW ∧
    (sent (exec (.shiftDisplay true 1) (readyAt resetFlags))).isSome = true ∧
    (sent (exec (.shiftCursor true 1) (readyAt resetFlags))).isSome = true ∧
    (sent (exec (.shiftCursor true 0) (readyAt resetFlags))).isSome = true :=
  ⟨readyAt_tabled _, readyAt_runnable _, by decide, by decide, by decide, by decide, by decide, by decide⟩

theorem witness_SendByteSendsTheValueOrRejects :
    Tabled (readyAt resetFlags).cfg ∧ Runnable (readyAt resetFlags) ∧
    ((1#4).toNat < 2 ∨ 8 ≤ (1#4).toNat) ∧ ((8#4).toNat < 2 ∨ 8 ≤ (8#4).toNat) ∧
    (2 ≤ (2#4).toNat ∧ (2#4).toNat < 8) ∧ (2 ≤ (7#4).toNat ∧ (7#4).toNat < 8) :=
  ⟨readyAt_tabled _, readyAt_runnable _, by decide, by decide, by decide, by decide⟩

theorem witness_InitQueuesTheSequence : Tabled fresh.cfg ∧ fresh.phase = .uninitialized := ⟨⟨rfl, rfl⟩, rfl⟩

/-- The premise of the statements about command bytes, in any phase. -/
theorem witness_command_bytes : Tabled fresh.cfg ∧ Tabled (readyAt darkFlags).cfg := ⟨⟨rfl, rfl⟩, ⟨rfl, rfl⟩⟩

theorem witness_RequestsAreCheckedInOrder :
    ∃ (s : State) (w : ReqWord) (cs : List Code), Presented s (.req w) cs ∧ Tabled s.cfg :=
  ⟨{ fresh with input := [.req 0x030200#24, .req 0x000000#24] }, _, _, ⟨rfl, rfl, rfl⟩, ⟨rfl, rfl⟩⟩

-- one word for each branch, at the boundaries: reserved, sequencing (twice), operand guard, running
theorem test_checks_in_order :
    answered (step { fresh with input := [.req 0x0B0000#24] }) = some 1#2 ∧
    answered (step { fresh with input := [.req 0x0A0028#24] }) = some 3#2 ∧
    answered (step { readyAt resetFlags with input := [.req 0x000000#24] }) = some 3#2 ∧
    answered (step { readyAt resetFlags with input := [.req 0x030010#24] }) = some 1#2 ∧
    (sent (step { readyAt resetFlags with input := [.req 0x03010F#24] })).isSome = true := by decide

theorem witness_SequencingIsChecked :
    (isCommandLayer .clear = true ∧ fresh.cfg.strict = true ∧ fresh.phase ≠ .ready) ∧
    (readyAt resetFlags).phase ≠ .uninitialized ∧
    (Tabled fresh.cfg ∧ fresh.phase = .uninitialized) ∧
    (isCommandLayer (.sendByte 0x28#8 .command .fast) = true ∧ Runnable lax) :=
  ⟨by decide, by decide, ⟨⟨rfl, rfl⟩, rfl⟩, by decide, lax_runnable⟩

theorem witness_FailedWriteOnlySetsTf :
    (∃ (s : State) (b : Byte) (q : List Item),
      s.resetIn = false ∧ s.busy = true ∧ s.stalled = false ∧ s.queue = .emit (.write b) :: q ∧
      b.getLsbD 1 = false) ∧
    ∃ s : State, s.resetIn = false ∧ s.busy = true ∧ s.queue = [] ∧ s.tf = true :=
  ⟨⟨running [.emit (.write 0xFD#8)], _, _, rfl, rfl, rfl, rfl, by decide⟩, { running [] with tf := true },
    rfl, rfl, rfl, rfl⟩

theorem witness_TransportAnswersShowOnlyInTheResult :
    ∃ s t : State, s.busy = true ∧ s.queue = [] ∧ step s = .next t := ⟨running [], _, rfl, rfl, rfl⟩

theorem witness_OperationsRunToCompletion :
    ∃ s : State, s.resetIn = false ∧ s.stalled = false ∧ s.busy = true ∧
      (writes (queueEvents s.queue)).length = 4 ∧
      ∀ b ∈ writes (queueEvents s.queue), b.getLsbD 1 = false :=
  ⟨running (transmission 0x4#4 0x1#4 true true 80), rfl, rfl, rfl, by decide, by decide⟩

theorem witness_InitReachesReady :
    (∃ (s : State) (a b : Byte) (cs : List Code), Presented s (.req (0x00#8 ++ a ++ b)) cs ∧ Tabled s.cfg ∧
      s.phase = .uninitialized ∧ s.stalled = false) ∧
    ∃ (s : State) (a b : Byte) (cs : List Code), Presented s (.req (0x00#8 ++ a ++ b)) cs ∧ Tabled s.cfg ∧
      s.phase ≠ .uninitialized :=
  ⟨⟨{ fresh with input := [.req (0x00#8 ++ 0xFF#8 ++ 0x01#8)] }, _, _, _, ⟨rfl, rfl, rfl⟩, ⟨rfl, rfl⟩, rfl, rfl⟩,
    ⟨{ readyAt darkFlags with input := [.req (0x00#8 ++ 0#8 ++ 0#8)] }, _, _, _, ⟨rfl, rfl, rfl⟩, ⟨rfl, rfl⟩,
      by decide⟩⟩

theorem witness_WriteStringSendsItsCharacters :
    ∃ s : State, s.resetIn = false ∧ s.stalled = false ∧ s.busy = false ∧ Runnable s ∧
      s.input = writeString [0x41#8, 0x42#8] ++ [.req 0x010000#24] :=
  ⟨{ readyAt resetFlags with input := [.req 0x020041#24, .req 0x020042#24, .req 0x010000#24] },
    rfl, rfl, rfl, fun _ => rfl, by decide⟩

theorem witness_PhaseAdvancesAlongTheChain :
    (∃ s t : State, Inv s ∧ s.resetIn = false ∧ step s = .next t ∧ t.phase ≠ s.phase) ∧
    (∃ s t : State, Inv s ∧ s.resetIn = false ∧ s.phase = .ready ∧ step s = .next t ∧ t.trace ≠ s.trace) ∧
    ∃ s : State, Inv s ∧ s.busy = false :=
  ⟨⟨_, _, initialising_inv, rfl, rfl, by decide⟩, ⟨_, _, running_inv, rfl, rfl, rfl, by simp [running, readyAt, State.reset, State.emitWrite]⟩, fresh,
    fresh_inv, rfl⟩

/-- Each of the eight flags is changed by some instruction: the statement's premises are met. -/
theorem witness_EachFlagHasItsWriters :
    (∃ t, exec .init { fresh with st := flags false true true false true false true true } = .next t ∧
      t.st = resetFlags) ∧
    (∃ t, exec (.shiftDisplay true 1) (readyAt resetFlags) = .next t ∧
      t.st.shiftTargetIsDisplay ≠ resetFlags.shiftTargetIsDisplay ∧
      t.st.shiftDirectionRight ≠ resetFlags.shiftDirectionRight) ∧
    ∃ t, exec (.setBacklight false) (readyAt resetFlags) = .next t ∧
      t.st.backlightOn ≠ resetFlags.backlightOn ∧ t.st.displayOn ≠ resetFlags.displayOn :=
  ⟨⟨_, rfl, rfl⟩, ⟨_, rfl, by decide, by decide⟩, _, rfl, by decide, by decide⟩

theorem witness_RunningOperationIsNotDisturbed :
    ∃ s t : State, s.resetIn = false ∧ s.busy = true ∧ s.input = [.req 0x050000#24] ∧ step s = .next t ∧
      queueEvents s.queue ≠ [] :=
  ⟨{ running [.emit (.delay 80)] with input := [.req 0x050000#24] }, _, rfl, rfl, rfl, rfl, by simp [running, queueEvents, Item.event?]⟩

theorem witness_TraceOnlyGrowsAndParametersStay :
    ∃ s t : State, step s = .next t ∧ t.trace = s.trace ++ [.delay 80] :=
  ⟨running [.emit (.delay 80)], _, rfl, rfl⟩

/-- Of `QueuedWritesAreEnablePulses` and `EveryQueuedByteCarriesTheBacklight`. -/
theorem witness_queued_writes :
    ∃ t, exec .init fresh = .next t ∧ t.queue ≠ fresh.queue ∧ (writes (queueEvents t.queue)).length = 24 :=
  ⟨_, rfl, by simp [fresh, State.reset, State.accept, initItems], by decide⟩

theorem witness_ShadowFlagsReflectTheLastValueSent :
    Tabled (readyAt resetFlags).cfg ∧ (readyAt resetFlags).phase = .ready ∧
    3 < 2 ^ (readyAt resetFlags).cfg.countW ∧
    (∃ t, exec (.setCursorVisible true) (readyAt resetFlags) = .next t) ∧
    ∃ t, exec (.shiftCursor true 3) (readyAt resetFlags) = .next t :=
  ⟨readyAt_tabled _, rfl, by decide, ⟨_, rfl⟩, _, rfl⟩

/-- Of `InitHandshakeAsLatched` and `InitIsTakenInFromEightBitMode`. -/
theorem witness_InitHandshakeAsLatched : Tabled Config.standard := ⟨rfl, rfl⟩

theorem witness_EightBitModeEndsAtTheCommit :
    (∀ q ∈ [(false, 0x3#4), (false, 0x3#4)], commitsToFour CommandTable.hd44780 q = false) ∧
    commitsToFour CommandTable.hd44780 (false, 0x2#4) = true ∧
    commitsToFour CommandTable.hd44780 (true, 0x2#4) = false := by decide

theorem witness_ExpanderIdlesWithEnableClear : writes [.configure 7 4 5 100000, .delay 40000] = [] := by decide

theorem witness_WaitingChangesNothing :
    (∃ (s : State) (e : Event) (q : List Item),
      s.resetIn = false ∧ s.busy = true ∧ s.queue = .emit e :: q ∧ s.stalled = true) ∧
    (∃ s : State, s.resetIn = false ∧ s.busy = false ∧ s.input = []) ∧
    ∃ s : State, s.resetIn = true ∧ s.busy = true ∧ s.stalled = true :=
  ⟨⟨{ running [.emit (.write 0x3C#8)] with stalled := true }, _, _, rfl, rfl, rfl, rfl⟩, ⟨fresh, rfl, rfl, rfl⟩,
    { running [] with stalled := true, resetIn := true }, rfl, rfl, rfl⟩

theorem witness_InstancesAreIndependent :
    ∃ after, stepInstance 1 [fresh, running [.emit (.delay 80)]] = .next after ∧
      after[0]? = some fresh := ⟨_, rfl, rfl⟩

end Sys2Proof.Tests
end

section
/-! The trace and the responses only grow, and the parameters stay (R6, R22, R33, R37, R40): once for each
update of the state, then for `exec`, then for `step`. -/

namespace Sys2Proof.Machine

variable {s t : State}

/-- From `s` to `t` the parameters stay, and each output grows by at most one entry at its end: the trace by
any event (R37, R40), the responses by the code that `rsp` then holds (R23, R33). -/
def OutputsGrow (s t : State) : Prop :=
  t.cfg = s.cfg ∧ (t.trace = s.trace ∨ ∃ e : Event, t.trace = s.trace ++ [e]) ∧
  (t.responses = s.responses ∨ t.responses = s.responses ++ [t.rsp])

theorem outputsGrow_of_unchanged (hc : t.cfg = s.cfg) (ht : t.trace = s.trace)
    (hr : t.responses = s.responses) : OutputsGrow s t :=
  ⟨hc, .inl ht, .inl hr⟩

theorem outputsGrow_of_emitted {e : Event} (hc : t.cfg = s.cfg) (ht : t.trace = s.trace ++ [e])
    (hr : t.responses = s.responses) : OutputsGrow s t :=
  ⟨hc, .inr ⟨e, ht⟩, .inl hr⟩

theorem respond_outputsGrow (s : State) (r : Result) : OutputsGrow s (s.respond r) :=
  ⟨s.respond_cfg r, .inl (s.respond_trace r), .inr (s.respond_responses r)⟩

theorem accept_outputsGrow (s : State) (st : ControlState) (q : List Item) :
    OutputsGrow s (s.accept st q) :=
  outputsGrow_of_unchanged (s.accept_cfg st q) (s.accept_trace st q) (s.accept_responses st q)

theorem emit_outputsGrow (s : State) (e : Event) : OutputsGrow s (s.emit e) :=
  outputsGrow_of_emitted (s.emit_cfg e) (s.emit_trace e) (s.emit_responses e)

theorem emitWrite_outputsGrow (s : State) (b : Byte) (a : Answer) : OutputsGrow s (s.emitWrite b a) :=
  outputsGrow_of_emitted (s.emitWrite_cfg b a) (s.emitWrite_trace b a) (s.emitWrite_responses b a)

/-- Taking the head of the queue is no output, so what follows counts from the state before. -/
theorem outputsGrow_of_setQueue {q : List Item} (h : OutputsGrow (s.setQueue q) t) : OutputsGrow s t := h

/-- Taking the head of the input is no output, so what follows counts from the state before. -/
theorem outputsGrow_of_setInput {cs : List Code} (h : OutputsGrow (s.setInput cs) t) : OutputsGrow s t := h

theorem Transmits.outputsGrow (h : Transmits s t) : OutputsGrow s t := by
  obtain ⟨r, rfl⟩ | ⟨st, n, v, m, d, rfl, -⟩ := h
  · exact respond_outputsGrow s r
  · exact accept_outputsGrow s st _

theorem exec_outputsGrow {i : Instr} (h : exec i s = .next t) : OutputsGrow s t := by
  obtain htransmits | ⟨-, -, rfl⟩ | ⟨b, rfl⟩ := exec_cases h
  · exact htransmits.outputsGrow
  · exact accept_outputsGrow s _ _
  · exact emitWrite_outputsGrow s b _

theorem step_outputsGrow (h : step s = .next t) : OutputsGrow s t := by
  obtain ⟨-, rfl⟩ | ⟨-, rfl, -⟩ | ⟨-, -, -, rfl⟩ | ⟨p, q, -, -, -, rfl⟩ |
    ⟨e, q, -, -, -, -, hemitted⟩ | ⟨c, cs, -, htaken⟩ := step_cases h
  · exact outputsGrow_of_unchanged s.blockReset_cfg s.blockReset_trace s.blockReset_responses
  · exact outputsGrow_of_unchanged rfl rfl rfl
  · exact respond_outputsGrow s _
  · exact outputsGrow_of_unchanged (by simp) (by simp) (by simp)
  · apply outputsGrow_of_setQueue (q := q)
    obtain ⟨rfl, -⟩ | ⟨b, -, -, rfl⟩ := hemitted
    · exact emit_outputsGrow _ e
    · exact emitWrite_outputsGrow _ b _
  · apply outputsGrow_of_setInput (cs := cs)
    obtain ⟨i, -, hexec⟩ | rfl := htaken
    · exact exec_outputsGrow hexec
    · exact respond_outputsGrow _ _

/-- Settles O42, by the cases of a step: each is one update of the state that emits at most one event and
presents at most one response. -/
theorem traceOnlyGrowsAndParametersStay : Obligations.TraceOnlyGrowsAndParametersStay := by
  unfold Obligations.TraceOnlyGrowsAndParametersStay
  intro s t h
  exact step_outputsGrow h

end Sys2Proof.Machine
end

section
/-! The invariant and the phase chain (R20, R21, R50, R61, R106, R127): the chain first, then the invariant
once for each update of the state, for `exec` at an idle block, and for `step`. -/

namespace Sys2Proof.Machine

variable {s t : State}

/-! ### The chain of phases -/

/-- The chain goes one place at a time (R106). -/
theorem Phase.rest_of_rest_eq_cons {p next : Phase} {ps : List Phase} (h : p.rest = next :: ps) :
    next.rest = ps := by
  cases p <;> cases h <;> rfl

theorem Phase.rest_eq_nil_iff {p : Phase} : p.rest = [] ↔ p = .ready := by
  cases p <;> simp [Phase.rest]

/-- Only the two ends of the chain have no phase queued behind them. -/
theorem Inv.phase_of_no_phases (h : Inv s) (hq : queuePhases s.queue = []) :
    s.phase = .uninitialized ∨ s.phase = .ready := by
  obtain hrest | ⟨huninitialized, -⟩ := h.chain
  · exact .inr (Phase.rest_eq_nil_iff.1 (hrest.symm.trans hq))
  · exact .inl huninitialized

theorem Inv.idle_phase (h : Inv s) (hb : s.busy = false) :
    s.phase = .uninitialized ∨ s.phase = .ready :=
  h.phase_of_no_phases (by rw [h.idle hb]; rfl)

/-- A queued change of phase is the next place of the chain. -/
theorem Inv.rest_of_enter {p : Phase} {q : List Item} (h : Inv s) (hq : s.queue = .enter p :: q) :
    s.phase.rest = p :: queuePhases q := by
  obtain hrest | ⟨-, hnone⟩ := h.chain
  · rw [← hrest, hq, queuePhases_enter]
  · simp [hq] at hnone

/-! ### The invariant after each update -/

theorem blockReset_inv (s : State) : Inv s.blockReset where
  idle _ := rfl
  wire := by simp
  chain := .inr ⟨rfl, rfl⟩
  durations := by simp

/-- What stands at the input is not in the invariant. -/
theorem Inv.setInput (h : Inv s) (cs : List Code) : Inv (s.setInput cs) :=
  ⟨h.idle, h.wire, h.chain, h.durations⟩

theorem Inv.respond (h : Inv s) (hq : s.queue = []) (r : Result) : Inv (s.respond r) :=
  ⟨fun _ => hq, h.wire, h.chain, h.durations⟩

theorem Inv.enterPhase {p : Phase} {q : List Item} (h : Inv s) (hb : s.busy = true)
    (hq : s.queue = .enter p :: q) : Inv ((s.setQueue q).enterPhase p) where
  idle hidle := by simp [hb] at hidle
  wire := by simpa [hq] using h.wire
  chain := .inl (Phase.rest_of_rest_eq_cons (h.rest_of_enter hq)).symm
  durations := by simpa [hq] using h.durations

/-- Taking the head event of a running operation's queue away. -/
theorem Inv.setQueue {e : Event} {q : List Item} (h : Inv s) (hb : s.busy = true)
    (hq : s.queue = .emit e :: q) : Inv (s.setQueue q) where
  idle hidle := by simp [hb] at hidle
  wire b hmem := h.wire b (mem_writes.2 (by simpa [hq] using .inr (mem_writes.1 hmem)))
  chain := by simpa [hq] using h.chain
  durations n hmem := h.durations n (mem_delays.2 (by simpa [hq] using .inr (mem_delays.1 hmem)))

/-- An event that goes into the trace is no part of the invariant. -/
theorem Inv.emit (h : Inv s) (e : Event) : Inv (s.emit e) :=
  ⟨h.idle, h.wire, h.chain, h.durations⟩

theorem Inv.emitWrite (h : Inv s) (b : Byte) (a : Answer) : Inv (s.emitWrite b a) :=
  ⟨h.idle, h.wire, h.chain, h.durations⟩

/-- An operation that enters no phase is accepted at the two ends of the chain only. -/
theorem Inv.accept_items {es : List Event} (h : Inv s) (hb : s.busy = false) (st : ControlState)
    (hwire : ∀ b, .write b ∈ es → b.getLsbD 1 = false)
    (hdelay : ∀ n, .delay n ∈ es → n ∈ Timing.durations s.cfg.timing) :
    Inv (s.accept st (items es)) where
  idle hidle := by simp at hidle
  wire b hmem := hwire b (by simpa [mem_writes] using hmem)
  chain := by
    obtain hphase | hphase := h.idle_phase hb
    · exact .inr ⟨hphase, by simp⟩
    · exact .inl (by simp [hphase, Phase.rest])
  durations n hmem := hdelay n (by simpa [mem_delays] using hmem)

/-- INIT queues the whole chain, from its first place. -/
theorem accept_initItems_inv (hphase : s.phase = .uninitialized) (st : ControlState) :
    Inv (s.accept st (initItems s.cfg st)) where
  idle hidle := by simp at hidle
  wire _ hmem := initItems_readWrite hmem
  chain := .inl (by rw [State.accept_queue, State.accept_phase, hphase, queuePhases_initItems])
  durations _ hmem := initItems_durations hmem

/-! ### The invariant after an instruction and after a step -/

theorem Transmits.inv (h : Transmits s t) (hinv : Inv s) (hb : s.busy = false) : Inv t := by
  obtain ⟨r, rfl⟩ | ⟨st, n, v, m, d, rfl, hsettle⟩ := h
  · exact hinv.respond (hinv.idle hb) r
  · refine hinv.accept_items hb st (fun b hmem => sendTrace_readWrite (mem_repeated hmem))
      (fun n hmem => ?_)
    rw [sendTrace_delay (mem_repeated hmem)]
    obtain rfl | rfl := hsettle <;> simp [Timing.durations]

/-- An instruction run at an idle block keeps the invariant. -/
theorem exec_inv {i : Instr} (h : exec i s = .next t) (hinv : Inv s) (hb : s.busy = false) : Inv t := by
  obtain htransmits | ⟨-, hphase, rfl⟩ | ⟨b, rfl⟩ := exec_cases h
  · exact htransmits.inv hinv hb
  · exact accept_initItems_inv hphase ControlState.defaults
  · exact hinv.emitWrite b _

theorem step_inv (h : step s = .next t) (hinv : Inv s) : Inv t := by
  obtain ⟨-, rfl⟩ | ⟨-, rfl, -⟩ | ⟨-, -, hq, rfl⟩ | ⟨p, q, -, hb, hq, rfl⟩ |
    ⟨e, q, -, hb, -, hq, hemitted⟩ | ⟨c, cs, ⟨hb, -, -⟩, htaken⟩ := step_cases h
  · exact blockReset_inv s
  · exact hinv
  · exact hinv.respond hq _
  · exact hinv.enterPhase hb hq
  · obtain ⟨rfl, -⟩ | ⟨b, -, -, rfl⟩ := hemitted
    · exact (hinv.setQueue hb hq).emit e
    · exact (hinv.setQueue hb hq).emitWrite b _
  · obtain ⟨i, -, hexec⟩ | rfl := htaken
    · exact exec_inv hexec (hinv.setInput cs) hb
    · exact (hinv.setInput cs).respond (hinv.idle hb) _

/-- Settles O3, by the cases of a step: the invariant is kept by each update of the state. -/
theorem everyStepKeepsTheInv : Obligations.EveryStepKeepsTheInv := by
  unfold Obligations.EveryStepKeepsTheInv
  intro s t hinv h
  exact step_inv h hinv

/-- Settles O2: the state after reset is one that the reset input leaves. -/
theorem invHoldsAtReset : Obligations.InvHoldsAtReset := by
  unfold Obligations.InvHoldsAtReset
  exact blockReset_inv State.reset

/-! ### The phase over a step -/

/-- No instruction advances the phase: the entries of INIT's queue do (R106). -/
theorem exec_phase {i : Instr} (h : exec i s = .next t) : t.phase = s.phase := by
  obtain (⟨r, rfl⟩ | ⟨st, n, v, m, d, rfl, -⟩) | ⟨-, -, rfl⟩ | ⟨b, rfl⟩ := exec_cases h
  · exact s.respond_phase r
  · exact s.accept_phase st _
  · exact s.accept_phase _ _
  · exact s.emitWrite_phase b _

/-- Outside reset a step leaves the phase, or advances a running operation's by one place of the chain. -/
theorem step_phase (hinv : Inv s) (hr : s.resetIn = false) (h : step s = .next t) :
    t.phase = s.phase ∨ (s.busy = true ∧ t.busy = true ∧ s.phase.rest = t.phase :: t.phase.rest) := by
  obtain ⟨hreset, -⟩ | ⟨-, rfl, -⟩ | ⟨-, -, -, rfl⟩ | ⟨p, q, -, hb, hq, rfl⟩ |
    ⟨e, q, -, -, -, -, hemitted⟩ | ⟨c, cs, -, htaken⟩ := step_cases h
  · simp [hr] at hreset
  · exact .inl rfl
  · exact .inl (s.respond_phase _)
  · have hrest := hinv.rest_of_enter hq
    refine .inr ⟨hb, hb, ?_⟩
    rw [State.enterPhase_phase, Phase.rest_of_rest_eq_cons hrest, hrest]
  · obtain ⟨rfl, -⟩ | ⟨b, -, -, rfl⟩ := hemitted <;> exact .inl rfl
  · obtain ⟨i, -, hexec⟩ | rfl := htaken
    · exact .inl ((exec_phase hexec).trans (s.setInput_phase cs))
    · exact .inl rfl

/-- Settles O39: `Ready` has no next place, and an idle block has no phase queued. -/
theorem phaseAdvancesAlongTheChain : Obligations.PhaseAdvancesAlongTheChain := by
  unfold Obligations.PhaseAdvancesAlongTheChain
  refine ⟨fun s t hinv hr h => step_phase hinv hr h, fun s t hinv hr hready h => ?_,
    fun s hinv hb => hinv.idle_phase hb⟩
  obtain hsame | ⟨-, -, hrest⟩ := step_phase hinv hr h
  · exact hsame.trans hready
  · simp [hready, Phase.rest] at hrest

end Sys2Proof.Machine
end

section
/-! A running operation (R21, R33, R42): what a step does to it, and its run to the end of its queue. -/

namespace Sys2Proof.Machine

variable {s t : State}

/-- Settles O41, by the cases of a step of a busy block: the head event moves from the queue to the end of
the trace, or no event moves. -/
theorem runningOperationIsNotDisturbed : Obligations.RunningOperationIsNotDisturbed := by
  unfold Obligations.RunningOperationIsNotDisturbed
  intro s t hr hb h
  obtain ⟨hreset, -⟩ | ⟨-, rfl, -⟩ | ⟨-, -, hq, rfl⟩ | ⟨p, q, -, -, hq, rfl⟩ |
    ⟨e, q, -, -, -, hq, hemitted⟩ | ⟨c, cs, ⟨hidle, -, -⟩, -⟩ := step_cases h
  · simp [hr] at hreset
  · simp
  · simp
  · simp [hq]
  · obtain ⟨rfl, -⟩ | ⟨b, rfl, -, rfl⟩ := hemitted <;> simp [hq]
  · simp [hb] at hidle

/-- The state when a running operation's whole queue has been emitted, before its response. -/
def State.drained (s : State) : State :=
  { s with
    queue := []
    trace := s.trace ++ queueEvents s.queue
    phase := (queuePhases s.queue).getLastD s.phase
    tf := s.tf || someFail s.cfg.identity s.draws (writes (queueEvents s.queue)).length
    draws := s.draws + (writes (queueEvents s.queue)).length }

theorem someFail_succ (id : Identity) (n k : Nat) :
    someFail id n (k + 1) =
      (decide (Config.transportAnswer id n = .fail) || someFail id (n + 1) k) := by
  simp [someFail, List.range_succ_eq_map, Function.comp_def, Nat.add_assoc, Nat.add_comm 1]

theorem someFail_iff {id : Identity} {n k : Nat} :
    someFail id n k = true ↔ ∃ j, j < k ∧ Config.transportAnswer id (n + j) = .fail := by
  simp [someFail]

theorem drained_of_queue_nil (hq : s.queue = []) : s.drained = s := by
  cases s
  cases hq
  simp [State.drained, someFail]

theorem drained_enterPhase {p : Phase} {q : List Item} (hq : s.queue = .enter p :: q) :
    ((s.setQueue q).enterPhase p).drained = s.drained := by
  simp [State.drained, State.enterPhase, State.setQueue, hq, List.getLast?_cons]

theorem drained_emit {e : Event} {q : List Item} (hq : s.queue = .emit e :: q) (he : ∀ b, e ≠ .write b) :
    ((s.setQueue q).emit e).drained = s.drained := by
  have hwrites : writes (e :: queueEvents q) = writes (queueEvents q) := by
    cases e with
    | write b => exact absurd rfl (he b)
    | delay n => rfl
    | configure bus sda scl rate => rfl
  simp [State.drained, State.emit, State.setQueue, hq, hwrites]

theorem drained_emitWrite {b : Byte} {q : List Item} (hq : s.queue = .emit (.write b) :: q) :
    ((s.setQueue q).emitWrite b (Config.transportAnswer s.cfg.identity s.draws)).drained = s.drained := by
  simp [State.drained, State.emitWrite, State.setQueue, hq, someFail_succ, Bool.or_assoc, Nat.add_assoc,
    Nat.add_comm 1]

/-- One step takes the head of the queue of a running operation, and what the operation comes to stays. -/
theorem step_of_queue_cons {x : Item} {q : List Item} (hr : s.resetIn = false) (hs : s.stalled = false)
    (hb : s.busy = true) (hq : s.queue = x :: q)
    (hw : ∀ b ∈ writes (queueEvents s.queue), b.getLsbD 1 = false) :
    ∃ u : State, step s = .next u ∧ u.queue = q ∧ u.busy = true ∧ u.resetIn = false ∧ u.stalled = false ∧
      u.drained = s.drained := by
  cases x with
  | enter p => exact ⟨_, step_enter hr hb hq, rfl, hb, hr, hs, drained_enterPhase hq⟩
  | emit e =>
    cases e with
    | delay n => exact ⟨_, step_delay hr hb hq hs, rfl, hb, hr, hs, drained_emit hq (by simp)⟩
    | configure bus sda scl rate =>
      exact ⟨_, step_configure hr hb hq hs, rfl, hb, hr, hs, drained_emit hq (by simp)⟩
    | write b =>
      have hbit : b.getLsbD 1 = false := hw b (by simp [hq])
      exact ⟨_, step_write hr hb hq hs hbit, rfl, hb, hr, hs, drained_emitWrite hq⟩

/-- As many steps as the queue has entries drain it. -/
theorem runSteps_queue_length (hr : s.resetIn = false) (hs : s.stalled = false) (hb : s.busy = true)
    (hw : ∀ b ∈ writes (queueEvents s.queue), b.getLsbD 1 = false) :
    runSteps s.queue.length s = .next s.drained := by
  induction hq : s.queue generalizing s with
  | nil => rw [drained_of_queue_nil hq]; rfl
  | cons x q ih =>
    obtain ⟨u, hstep, huq, hub, hur, hus, hdrained⟩ := step_of_queue_cons hr hs hb hq hw
    have huw : ∀ b ∈ writes (queueEvents u.queue), b.getLsbD 1 = false := by
      intro b hmem
      refine hw b (mem_writes.2 ?_)
      rw [huq] at hmem
      cases x <;> simp [hq, mem_writes.1 hmem]
    rw [List.length_cons, runSteps_succ hstep, ih hur hus hub huw huq, hdrained]

/-- A running operation comes to its response, which `tf` decides (R119). -/
theorem runSteps_to_response (hr : s.resetIn = false) (hs : s.stalled = false) (hb : s.busy = true)
    (hw : ∀ b ∈ writes (queueEvents s.queue), b.getLsbD 1 = false) :
    runSteps (s.queue.length + 1) s = .next (s.drained.respond (completion s.drained.tf)) := by
  have hstep : step s.drained = .next (s.drained.respond (completion s.drained.tf)) :=
    step_complete hr hb rfl
  rw [runSteps_add 1 (runSteps_queue_length hr hs hb hw), runSteps_succ hstep]
  rfl

theorem completion_code (tf : Bool) : (completion tf).code = if tf then 2#2 else 0#2 := by
  cases tf <;> rfl

/-- Settles O36, by induction over the queue: every entry's step leaves what the operation comes to, and
the step after the last presents the response. -/
theorem operationsRunToCompletion : Obligations.OperationsRunToCompletion := by
  unfold Obligations.OperationsRunToCompletion
  intro s hr hs hb hw
  refine ⟨_, runSteps_to_response hr hs hb hw, rfl, rfl, rfl, rfl, ?_, completion_code _, rfl, rfl, rfl,
    rfl, rfl, hr, hs⟩
  rw [← someFail_iff]
  exact Bool.or_eq_true_iff

end Sys2Proof.Machine
end

section
/-! Which instruction writes which flag (R11 to R18), and the backlight bit of what an instruction queues
(R16, R50). -/

namespace Sys2Proof.Machine

variable {s t : State}

/-- Settles O40, from the flag writes of every instruction: in each writer's case the flags that it does
not name are the old ones. -/
theorem eachFlagHasItsWriters : Obligations.EachFlagHasItsWriters := by
  unfold Obligations.EachFlagHasItsWriters
  intro i s t h
  obtain same | wrote := exec_flags h
  · simp [same]
  · cases i with
    | init => simp [wrote, ControlState.defaults]
    | setDisplay on => simp [wrote, ControlState.setDisplay]
    | setBacklight on => simp [wrote, ControlState.setBacklight]
    | setCursorVisible on => simp [wrote, ControlState.setCursorVisible]
    | setBlink on => simp [wrote, ControlState.setBlink]
    | shiftDisplay right count =>
      obtain ⟨hpos, wrote⟩ := wrote
      simp [wrote, ControlState.setShift, hpos]
    | shiftCursor right count =>
      obtain ⟨hpos, wrote⟩ := wrote
      simp [wrote, ControlState.setShift, hpos]
    | _ => exact wrote.elim

theorem nibbleByte_backlight (d : Nibble) (bl en rs : Bool) : (nibbleByte d bl en rs).getLsbD 3 = bl := by
  revert d bl en rs; decide

/-- Backlight is the flag's value in every byte of a `sendByte`. -/
theorem sendTrace_backlight {t : CommandTable} {st : ControlState} {v : Byte} {m : Mode} {d : Nat} {b : Byte}
    (h : .write b ∈ sendTrace t st v m d) : b.getLsbD 3 = st.backlightOn := by
  rw [sendTrace_eq] at h
  simp only [transmission, queueEvents_emit, queueEvents_nil, List.mem_cons, Event.write.injEq,
    reduceCtorEq, List.not_mem_nil, or_false, false_or] at h
  obtain rfl | rfl | rfl | rfl := h <;> exact nibbleByte_backlight ..

/-- Backlight is the flag's value in every byte of INIT, its raw pulses among them (R107). -/
theorem initItems_backlight (cfg : Config) (st : ControlState) :
    ∀ b ∈ writes (queueEvents (initItems cfg st)), b.getLsbD 3 = st.backlightOn := by
  simp [initItems, rawPulse_eq, fullCommand, items_sendTrace, singleNibble, transmission,
    nibbleByte_backlight, -BitVec.getLsbD_eq_getElem]

/-- Settles O44: a queue that is not the old one is made of transmissions, or is INIT's, under the flags
that the instruction leaves. -/
theorem everyQueuedByteCarriesTheBacklight : Obligations.EveryQueuedByteCarriesTheBacklight := by
  unfold Obligations.EveryQueuedByteCarriesTheBacklight
  intro i s t h hqueue b hb
  obtain (⟨r, rfl⟩ | ⟨st, n, v, m, d, rfl, -⟩) | ⟨-, -, rfl⟩ | ⟨byte, rfl⟩ := exec_cases h
  · exact absurd (s.respond_queue r) hqueue
  · rw [State.accept_queue, queueEvents_items, mem_writes] at hb
    exact sendTrace_backlight (mem_repeated hb)
  · exact initItems_backlight s.cfg _ b hb
  · exact absurd (s.emitWrite_queue byte _) hqueue

end Sys2Proof.Machine
end

section
/-! What the controller receives from the operations that rewrite a control register (R19). -/

namespace Sys2Proof.Machine

variable {s t : State}

/-- The two nibbles of a Command-mode byte put together are the effective byte (R77). -/
theorem high_append_low_eq_or (v : Byte) (e : Nibble) :
    v.extractLsb' 4 4 ++ (v.extractLsb' 0 4 ||| e) = v ||| e.setWidth 8 := by
  apply BitVec.eq_of_getLsbD_eq
  intro i hi
  simp only [BitVec.getLsbD_append, BitVec.getLsbD_or, BitVec.getLsbD_extractLsb', BitVec.getLsbD_setWidth]
  by_cases hlow : i < 4
  · simp [hlow, hi]
  · have hback : 4 + (i - 4) = i := by omega
    have hin : i - 4 < 4 := by omega
    simp [hlow, hback, hin, BitVec.getLsbD_of_ge e i (by omega)]

/-- The controller assembles one effective byte from each of a number of equal Command-mode transmissions,
whatever stood on the lines before. -/
theorem assembled_latched_repeated_command (t : CommandTable) (st : ControlState) (v : Byte) (d n : Nat)
    (p : Byte) :
    assembled (latched p (repeated n (sendTrace t st v .command d))) =
      List.replicate n (false, eff t st v) := by
  induction n generalizing p with
  | zero => rfl
  | succ n ih =>
    have hcons : repeated (n + 1) (sendTrace t st v .command d) =
        sendTrace t st v .command d ++ repeated n (sendTrace t st v .command d) := by
      simp [repeated, List.replicate_succ]
    rw [hcons, sendTrace_eq, latched_transmission, assembled_pair, ← sendTrace_eq, ih,
      List.replicate_succ, eff, ← high_append_low_eq_or]
    rfl

theorem received_repeated_command (t : CommandTable) (st : ControlState) (v : Byte) (d n : Nat) :
    received (queueEvents (items (repeated n (sendTrace t st v .command d)))) =
      List.replicate n (false, eff t st v) := by
  rw [queueEvents_items]
  exact assembled_latched_repeated_command t st v d n _

/-- The display-control opcode takes on its three flags (R73). -/
theorem eff_opDispctl (st : ControlState) :
    eff CommandTable.hd44780 st CommandTable.hd44780.opDispctl =
      dispctlByte st.displayOn st.cursorVisible st.blinking := by
  have hfamily : family CommandTable.hd44780 CommandTable.hd44780.opDispctl = .dispctl := by decide
  simp only [eff, inject, hfamily]
  cases st.displayOn <;> cases st.cursorVisible <;> cases st.blinking <;> rfl

/-- The shift opcode takes on its two flags (R73). -/
theorem eff_opShift (st : ControlState) :
    eff CommandTable.hd44780 st CommandTable.hd44780.opShift =
      shiftByte st.shiftTargetIsDisplay st.shiftDirectionRight 0#2 := by
  have hfamily : family CommandTable.hd44780 CommandTable.hd44780.opShift = .shift := by decide
  simp only [eff, inject, hfamily]
  cases st.shiftTargetIsDisplay <;> cases st.shiftDirectionRight <;> rfl

theorem hd44780_admits_opDispctl :
    sendAdmitted CommandTable.hd44780 .command CommandTable.hd44780.opDispctl .host = true := by decide

theorem hd44780_admits_opShift :
    sendAdmitted CommandTable.hd44780 .command CommandTable.hd44780.opShift .host = true := by decide

/-- What the controller receives of a re-sent display-control command are the flags that stand after it. -/
theorem resendDisplayControl_received {st : ControlState} (htable : s.cfg.table = CommandTable.hd44780)
    (h : resendDisplayControl st s = .next t) :
    received (queueEvents t.queue) =
      [(false, dispctlByte t.st.displayOn t.st.cursorVisible t.st.blinking)] := by
  rw [resendDisplayControl, transmit_of_admitted (by rw [htable]; exact hd44780_admits_opDispctl)] at h
  cases h
  rw [← accept_eq, State.accept_queue, State.accept_st, received_repeated_command, htable, eff_opDispctl]
  rfl

/-- What the controller receives of a shift are the shift flags that stand after it, once for each
position; of a shift of no position it receives nothing. -/
theorem shiftBy_received {display right : Bool} {n : Nat} (htable : s.cfg.table = CommandTable.hd44780)
    (h : shiftBy display right n s = .next t) :
    received (queueEvents t.queue) =
      List.replicate n (false, shiftByte t.st.shiftTargetIsDisplay t.st.shiftDirectionRight 0#2) := by
  unfold shiftBy at h
  split at h
  · next hzero => cases h; subst hzero; rfl
  · rw [transmit_of_admitted (by rw [htable]; exact hd44780_admits_opShift)] at h
    cases h
    rw [← accept_eq, State.accept_queue, State.accept_st, received_repeated_command, htable, eff_opShift]

/-- Settles O45: in `Ready` the prelude lets the operation through, to the one command that it re-sends. -/
theorem shadowFlagsReflectTheLastValueSent : Obligations.ShadowFlagsReflectTheLastValueSent := by
  unfold Obligations.ShadowFlagsReflectTheLastValueSent
  rintro s t ⟨htable, -⟩ hready
  have runs {body : Host.Outcome State Fault Refusal} (h : prelude s body = .next t) : body = .next t := by
    rwa [prelude_of_runnable (fun _ => hready)] at h
  constructor
  · intro on i hi h
    obtain rfl | rfl | rfl | rfl := hi <;> exact resendDisplayControl_received htable (runs h)
  · intro right count i hi hcount h
    rw [← countOperand_of_lt hcount]
    obtain rfl | rfl := hi <;> exact shiftBy_received htable (runs h)

end Sys2Proof.Machine
end

section
/-! From the code to the instruction that a step runs (R21, R33, R119), and the order in which a request is
checked (R116, R117, R120, R121). -/

namespace Sys2Proof.Machine

variable {s t : State}

/-! ### The decoded instruction runs -/

theorem runCode_of_decode {c : Code} {i : Instr} (h : decode c = .ok i) (s : State) :
    runCode c s = exec i s := by
  simp only [runCode, h]

theorem step_complete_run (hr : s.resetIn = false) (hb : s.busy = true) (hq : s.queue = []) :
    step s = runCode (.rsp (completion s.tf).code) s := by
  simp [step, advance, hr, hb, advanceBusy, hq, perform]

/-- Settles O5: on each of the three routes a step runs a code, and running a code is running what it
decodes to. -/
theorem stepRunsTheDecodedInstruction : Obligations.StepRunsTheDecodedInstruction := by
  unfold Obligations.StepRunsTheDecodedInstruction
  refine ⟨fun s c cs i hpresented hdecode => ?_, fun s b q i hr hb hs hq hdecode => ?_,
    fun s i hr hb hq hdecode => ?_⟩
  · rw [step_presented hpresented, runCode_of_decode hdecode]
    rfl
  · rw [step_write_run hr hb hq hs, runCode_of_decode hdecode]
    rfl
  · rw [← completion_code] at hdecode
    rw [step_complete_run hr hb hq, runCode_of_decode hdecode]

/-! ### The operand guard of a request -/

/-- The operands that R120's third check rejects at the default table and geometry: a position out of range
(R88), and a Command value of the CGRAM or the function-set family (R74, R75). -/
def OperandsRejected : Instr → Prop
  | .setCursor line column => 1 < line.toNat ∨ 15 < column.toNat
  | .sendByte value mode _ => mode = .command ∧ 0x20 ≤ value.toNat ∧ value.toNat ≤ 0x7F
  | _ => False

/-- What the host may send in Command mode, by the range of the value (R53, R74). -/
theorem sendAdmitted_hd44780_command_host (v : Byte) :
    sendAdmitted CommandTable.hd44780 .command v .host = true ↔ ¬(0x20 ≤ v.toNat ∧ v.toNat ≤ 0x7F) := by
  revert v; decide

theorem cursorInRange_lcd1602 (line column : Byte) :
    cursorInRange Geometry.lcd1602 line column = true ↔ ¬(1 < line.toNat ∨ 15 < column.toNat) := by
  have hlines : Geometry.lcd1602.lines = 2 := rfl
  have hcolumns : Geometry.lcd1602.columns = 16 := rfl
  rw [cursorInRange, Bool.and_eq_true, decide_eq_true_iff, decide_eq_true_iff, hlines, hcolumns]
  omega

/-- The address of a position in range is a set-DDRAM-address command (R55). -/
theorem ddramCommand_lcd1602_ge {line column : Byte} (h : column.toNat ≤ 15) :
    0x80 ≤ (ddramCommand Geometry.lcd1602 line column).toNat := by
  unfold ddramCommand
  split <;> simp [Geometry.lcd1602, BitVec.toNat_add] <;> omega

/-- A command-layer request outside `Ready` is a sequencing violation when strict, whatever its operands
(R85, R117). -/
theorem exec_of_not_runnable {i : Instr} (hi : isCommandLayer i = true) (hrun : ¬Runnable s) :
    exec i s = .next (responded 3#2 s) := by
  cases i with
  | init | cmdDdram | cmdCgram | cmdFunc | cmdShift | cmdDispctl | cmdEntry | cmdOther | nibbleEnSet
  | nibbleEnClr | rspOk | rspInvalidArgument | rspTransportFailure | rspSequencingViolation =>
    cases hi
  | clear | writeChar | setCursor | setDisplay | setBacklight | setCursorVisible | setBlink | shiftDisplay
  | shiftCursor | sendByte =>
    exact prelude_of_not_runnable hrun _

theorem execInit_of_not_uninitialized (hphase : s.phase ≠ .uninitialized) :
    exec .init s = .next (responded 3#2 s) := by
  simp [exec, execInit, hphase, raise_eq, Result.code]

/-- At the default table INIT's guard is no obstacle (R105). -/
theorem execInit_of_uninitialized (htabled : Tabled s.cfg) (hphase : s.phase = .uninitialized) :
    exec .init s =
      .next (accepted ControlState.defaults (initItems s.cfg ControlState.defaults) s) := by
  have hadmitted : initAdmitted CommandTable.hd44780 = true := by decide
  simp [exec, execInit, hphase, htabled.1, hadmitted, accept_eq]

/-- Rejected operands are answered INVALID_ARGUMENT, once the sequencing check is passed (R120, R121). -/
theorem exec_of_operandsRejected {i : Instr} (htabled : Tabled s.cfg) (hrun : Runnable s)
    (h : OperandsRejected i) : exec i s = .next (responded 1#2 s) := by
  obtain ⟨htable, hgeometry⟩ := htabled
  unfold OperandsRejected at h
  split at h
  · next line column =>
    have hrange : cursorInRange s.cfg.geometry line column = false := by
      rw [hgeometry, ← Bool.not_eq_true, cursorInRange_lcd1602, not_not]
      exact h
    simp only [exec, execSetCursor, prelude_of_runnable hrun, hrange]
    rfl
  · next value mode settle =>
    obtain ⟨rfl, hvalue⟩ := h
    have hguard : sendAdmitted s.cfg.table .command value .host = false := by
      rw [htable, ← Bool.not_eq_true, sendAdmitted_hd44780_command_host, not_not]
      exact hvalue
    simp only [exec, execSendByte, prelude_of_runnable hrun, transmit_of_rejected hguard]
  · exact h.elim

/-- An admitted transmission is accepted. -/
theorem transmit_accepted {v : Byte} {m : Mode} {ctx : Context}
    (h : sendAdmitted s.cfg.table m v ctx = true) (st : ControlState) (n d : Nat) :
    ∃ st' q, transmit st n v m d ctx s = .next (accepted st' q s) :=
  ⟨_, _, transmit_of_admitted h st n d⟩

/-- A shift at the default table is accepted whatever its count (R93, R94). -/
theorem shiftBy_accepted (htable : s.cfg.table = CommandTable.hd44780) (display right : Bool) (n : Nat) :
    ∃ st q, shiftBy display right n s = .next (accepted st q s) := by
  unfold shiftBy
  split
  · exact ⟨_, _, rfl⟩
  · exact transmit_accepted (by rw [htable]; exact hd44780_admits_opShift) _ _ _

/-- A command-layer request that passes the sequencing check and the operand guard is accepted (R120). -/
theorem exec_accepted {i : Instr} (hi : isCommandLayer i = true) (htabled : Tabled s.cfg)
    (hrun : Runnable s) (h : ¬OperandsRejected i) :
    ∃ st q, exec i s = .next (accepted st q s) := by
  obtain ⟨htable, hgeometry⟩ := htabled
  have behind {body : Host.Outcome State Fault Refusal}
      (hbody : ∃ st q, body = .next (accepted st q s)) :
      ∃ st q, prelude s body = .next (accepted st q s) := by
    rwa [prelude_of_runnable hrun]
  have dispctl : sendAdmitted s.cfg.table .command s.cfg.table.opDispctl .host = true := by
    rw [htable]; exact hd44780_admits_opDispctl
  cases i with
  | init | cmdDdram | cmdCgram | cmdFunc | cmdShift | cmdDispctl | cmdEntry | cmdOther | nibbleEnSet
  | nibbleEnClr | rspOk | rspInvalidArgument | rspTransportFailure | rspSequencingViolation =>
    cases hi
  | clear => exact behind (transmit_accepted (by rw [htable]; decide) _ _ _)
  | writeChar ch => exact behind (transmit_accepted rfl _ _ _)
  | setCursor line column =>
    have hrange := (cursorInRange_lcd1602 line column).2 h
    have hcolumn : column.toNat ≤ 15 := not_lt.1 fun hlt => h (.inr hlt)
    refine behind ?_
    rw [hgeometry, if_pos hrange]
    refine transmit_accepted ?_ _ _ _
    rw [htable, sendAdmitted_hd44780_command_host]
    have := ddramCommand_lcd1602_ge (line := line) hcolumn
    omega
  | setDisplay | setBacklight | setCursorVisible | setBlink =>
    exact behind (transmit_accepted dispctl _ _ _)
  | shiftDisplay | shiftCursor => exact behind (shiftBy_accepted htable _ _ _)
  | sendByte value mode settle =>
    refine behind (transmit_accepted ?_ _ _ _)
    cases mode with
    | data => rfl
    | command =>
      rw [htable, sendAdmitted_hd44780_command_host]
      exact fun hvalue => h ⟨rfl, hvalue⟩

/-! ### The request words -/

/-- A reserved opcode is no instruction (R58). -/
theorem decodeRequest_reserved {w : ReqWord} (h : 0x0B ≤ (reqOp w).toNat) :
    decode (.req w) = .error (.reservedOpcode (reqOp w)) := by
  obtain ⟨n, hn⟩ := Nat.exists_eq_add_of_le' h
  simp only [decode, decodeRequest, hn]

/-- The checks of R120 that a request word with a defined opcode meets, read from the word's fields: those
of INIT for opcode 0, else those of a command-layer request with the operands in the fields (R58, R59). -/
theorem decodeRequest_defined {w : ReqWord} (h : (reqOp w).toNat < 0x0B) :
    ∃ i, decode (.req w) = .ok i ∧
      ((reqOp w).toNat = 0x00 ∧ i = .init ∨ (reqOp w).toNat ≠ 0x00 ∧ isCommandLayer i = true) ∧
      (OperandsRejected i ↔
        (reqOp w).toNat = 0x03 ∧ (1 < (reqA w).toNat ∨ 15 < (reqB w).toNat) ∨
        (reqOp w).toNat = 0x0A ∧ (reqA w).getLsbD 0 = false ∧
          0x20 ≤ (reqB w).toNat ∧ (reqB w).toNat ≤ 0x7F) := by
  simp only [decode, decodeRequest]
  generalize (reqOp w).toNat = op at h ⊢
  interval_cases op <;> simp [isCommandLayer, OperandsRejected, modeOperand]

/-- Settles O32: the four branches are a reserved word, the sequencing check of the instruction, its operand
guard, and its acceptance. -/
theorem requestsAreCheckedInOrder : Obligations.RequestsAreCheckedInOrder := by
  unfold Obligations.RequestsAreCheckedInOrder
  refine ⟨fun s w cs hpresented htabled => ?_, fun s hr hb hq => ?_⟩
  · intro op a b u
    have hstep : step s = runCode (.req w) u := step_presented hpresented
    have hrunnable (hsequence : ¬(op = 0x00 ∧ s.phase ≠ .uninitialized ∨
        op ≠ 0x00 ∧ s.cfg.strict = true ∧ s.phase ≠ .ready)) (hnonzero : op ≠ 0x00) : Runnable u :=
      fun hstrict => by_contra fun hphase => hsequence (.inr ⟨hnonzero, hstrict, hphase⟩)
    split_ifs with hreserved hsequence hoperands
    · rw [hstep, runCode, decodeRequest_reserved hreserved]
      rfl
    all_goals
      obtain ⟨i, hdecode, hkind, hguard⟩ := decodeRequest_defined (not_le.1 hreserved)
      rw [hstep, runCode_of_decode hdecode]
    · obtain ⟨hzero, rfl⟩ | ⟨hnonzero, hlayer⟩ := hkind
      · obtain ⟨-, hphase⟩ | ⟨hnonzero, -⟩ := hsequence
        · exact execInit_of_not_uninitialized hphase
        · exact absurd hzero hnonzero
      · obtain ⟨hzero, -⟩ | ⟨-, hstrict, hphase⟩ := hsequence
        · exact absurd hzero hnonzero
        · exact exec_of_not_runnable hlayer fun hrun => hphase (hrun hstrict)
    · obtain ⟨-, rfl⟩ | ⟨hnonzero, -⟩ := hkind
      · exact (hguard.2 hoperands).elim
      · exact exec_of_operandsRejected htabled (hrunnable hsequence hnonzero) (hguard.2 hoperands)
    · obtain ⟨hzero, rfl⟩ | ⟨hnonzero, hlayer⟩ := hkind
      · have hphase : s.phase = .uninitialized := by_contra fun hphase => hsequence (.inl ⟨hzero, hphase⟩)
        exact ⟨_, _, execInit_of_uninitialized htabled hphase⟩
      · exact exec_accepted hlayer htabled (hrunnable hsequence hnonzero) (mt hguard.1 hoperands)
  · rw [step_complete hr hb hq, ← completion_code]
    rfl

end Sys2Proof.Machine
end

section
/-! The two bus widths (R44, R62): what a controller in 8-bit mode takes in up to the commit, and after it. -/

namespace Sys2Proof.Machine

/-- The commit is where 8-bit mode ends: each nibble up to it is one command, and the nibbles behind it are
taken in as in 4-bit mode (R44). -/
theorem receptions_eight_commit {t : CommandTable} {before : List (Bool × Nibble)} {p : Bool × Nibble}
    (hbefore : ∀ q ∈ before, commitsToFour t q = false) (hp : commitsToFour t p = true)
    (after : List (Bool × Nibble)) :
    receptions t .eight (before ++ p :: after) =
      (before ++ [p]).map (fun q => .upper q.1 q.2) ++ receptions t .four after := by
  induction before with
  | nil => simp [receptions_eight_cons, hp]
  | cons q before ih =>
    obtain ⟨hq, hrest⟩ := List.forall_mem_cons.1 hbefore
    simp [receptions_eight_cons, hq, ih hrest]

/-- Behind the commit the controller is in 4-bit mode, whatever follows (R44). -/
theorem BusWidth.after_eight_commit {t : CommandTable} {before : List (Bool × Nibble)} {p : Bool × Nibble}
    (hbefore : ∀ q ∈ before, commitsToFour t q = false) (hp : commitsToFour t p = true)
    (after : List (Bool × Nibble)) : BusWidth.after t .eight (before ++ p :: after) = .four := by
  induction before with
  | nil => simp [BusWidth.next, hp, BusWidth.after_four]
  | cons q before ih =>
    obtain ⟨hq, hrest⟩ := List.forall_mem_cons.1 hbefore
    simp [BusWidth.next, hq, ih hrest]

/-- In 4-bit mode two nibbles make one byte (R44). -/
theorem receptions_four_pair (t : CommandTable) (rs rs' : Bool) (hi lo : Nibble)
    (ps : List (Bool × Nibble)) :
    receptions t .four ((rs, hi) :: (rs', lo) :: ps) = .whole rs (hi ++ lo) :: receptions t .four ps := by
  simp [receptions_four]

/-- At the default table the commit is the nibble 2 of a command (R62, R105). -/
theorem commitsToFour_hd44780 (rs : Bool) (n : Nibble) :
    commitsToFour CommandTable.hd44780 (rs, n) = (!rs && decide (n = 0x2#4)) := by
  revert rs n; decide

/-- Settles O54: induction over the nibbles before the commit, the pairing of the nibbles behind it, and
the commit of the default table. -/
theorem eightBitModeEndsAtTheCommit : Obligations.EightBitModeEndsAtTheCommit := by
  unfold Obligations.EightBitModeEndsAtTheCommit
  exact ⟨fun _ _ after _ hbefore hp => receptions_eight_commit hbefore hp after, receptions_four_pair,
    commitsToFour_hd44780⟩

end Sys2Proof.Machine
end

section
/-! The expander at the end of a trace, and the calls of a trace (R30, R38, R45, R136). -/

namespace Sys2Proof.Machine

/-- The expander's lines are the last byte written, or as before when nothing is (R45). -/
theorem expanderLines_eq_getLast? (before : Option Byte) (es : List Event) :
    expanderLines before es = (writes es).getLast?.or before := by
  induction es generalizing before with
  | nil => rfl
  | cons e es ih =>
    cases e with
    | write b => cases h : (writes es).getLast? <;> simp [expanderLines, ih, h, List.getLast?_cons]
    | delay n => exact ih before
    | configure bus sda scl rate => exact ih before

/-- The four bytes of a full transmission (R62, R71). -/
theorem writes_transmission (hi lo : Nibble) (bl rs : Bool) (d : Nat) :
    writes (queueEvents (transmission hi lo bl rs d)) =
      [nibbleByte hi bl true rs, nibbleByte hi bl false rs, nibbleByte lo bl true rs,
        nibbleByte lo bl false rs] := rfl

/-- Settles O48: the last byte of a transmission is its low nibble byte with Enable clear. -/
theorem expanderIdlesWithEnableClear : Obligations.ExpanderIdlesWithEnableClear := by
  unfold Obligations.ExpanderIdlesWithEnableClear
  constructor
  · intro t st v m d before
    refine ⟨loNibble t st v m, ?_⟩
    rw [expanderLines_eq_getLast?, sendTrace_eq, writes_transmission]
    rfl
  · intro es hes
    rw [expanderLines_eq_getLast?, hes]
    rfl

/-- Only a write stands for a call on the I2C transport, and it goes to the instance's address on its bus
(R30, R38). -/
theorem Event.call_eq_i2cWrite_iff {id : Identity} {e : Event} {bus : Nat} {address : I2cAddress} {b : Byte} :
    e.call id = .i2cWrite bus address b ↔
      bus = id.busSelector ∧ address = id.busAddress ∧ e = .write b := by
  cases e <;> simp [Event.call, eq_comm]

/-- Settles O49: a call is that of an event of the trace, and only a write of the byte has it. -/
theorem writesGoToTheOneAddress : Obligations.WritesGoToTheOneAddress := by
  unfold Obligations.WritesGoToTheOneAddress
  intro id es bus address b
  rw [mem_writes, calls, List.mem_map]
  constructor
  · rintro ⟨e, he, hcall⟩
    obtain ⟨hbus, haddress, rfl⟩ := Event.call_eq_i2cWrite_iff.1 hcall
    exact ⟨hbus, haddress, he⟩
  · rintro ⟨hbus, haddress, he⟩
    exact ⟨_, he, Event.call_eq_i2cWrite_iff.2 ⟨hbus, haddress, rfl⟩⟩

end Sys2Proof.Machine
end

section
/-! What a controller in 8-bit mode takes in of INIT (R44, R62, R105, R107). -/

namespace Sys2Proof.Machine

/-- The nibbles of one Command-mode byte, as the controller latches them (R34, R71). -/
def commandNibbles (t : CommandTable) (st : ControlState) (v : Byte) : List (Bool × Nibble) :=
  [(false, v.extractLsb' 4 4), (false, loNibble t st v .command)]

/-- A transmission at the end of a trace latches its two nibbles and nothing more. -/
theorem latched_transmission_last (p : Byte) (hi lo : Nibble) (bl rs : Bool) (d : Nat) :
    latched p (queueEvents (transmission hi lo bl rs d)) = [(rs, hi), (rs, lo)] := by
  simpa using latched_transmission p hi lo bl rs d []

/-- INIT's nibbles at any parameters, whatever stood on the lines before: one of each raw pulse, two of each
full command (R105, R107, R108). -/
theorem latched_initItems (p : Byte) (cfg : Config) (st : ControlState) :
    latched p (queueEvents (initItems cfg st)) =
      [funcEightBit cfg.table, funcEightBit cfg.table, funcEightBit cfg.table, cfg.table.opFunc].map
          (fun v => (false, v.extractLsb' 4 4)) ++
        [cfg.table.opEntry, funcTwoLine cfg.table, cfg.table.opDispctl, cfg.table.opClear].flatMap
          (commandNibbles cfg.table st) := by
  simp [initItems, rawPulse_eq, fullCommand, items_sendTrace, latched_singleNibble, latched_transmission,
    latched_transmission_last, commandNibbles, isData]

/-- INIT's twelve nibbles at the default table: three forced 8-bit function sets, the commit, and four bytes
(R105, R107). -/
theorem latched_initItems_hd44780 (p : Byte) {cfg : Config} (htable : cfg.table = CommandTable.hd44780) :
    latched p (queueEvents (initItems cfg ControlState.defaults)) =
      [(false, 0x3#4), (false, 0x3#4), (false, 0x3#4)] ++ (false, 0x2#4) ::
        [(false, 0x0#4), (false, 0x6#4), (false, 0x2#4), (false, 0x8#4),
          (false, 0x0#4), (false, 0xC#4), (false, 0x0#4), (false, 0x1#4)] := by
  rw [latched_initItems, htable]
  decide

/-- Settles O53: the first three of INIT's nibbles do not commit and the fourth does, so 8-bit mode ends
there. -/
theorem initIsTakenInFromEightBitMode : Obligations.InitIsTakenInFromEightBitMode := by
  unfold Obligations.InitIsTakenInFromEightBitMode
  rintro cfg ⟨htable, -⟩
  have hforced : ∀ q ∈ [(false, 0x3#4), (false, 0x3#4), (false, 0x3#4)],
      commitsToFour CommandTable.hd44780 q = false := by decide
  have hcommit : commitsToFour CommandTable.hd44780 (false, 0x2#4) = true := by decide
  simp only [latched_initItems_hd44780 _ htable, htable]
  exact ⟨receptions_eight_commit hforced hcommit _, BusWidth.after_eight_commit hforced hcommit _⟩

end Sys2Proof.Machine
end

section
/-! Encoding and decoding (R50, R54, R57 to R60, R63): each format's fields are read back from its words, and
its words are made again from their fields. -/

namespace Sys2Proof.Machine

/-! ### Request words -/

section RequestWords

variable (a b : Byte)

@[simp] theorem decode_reqWord_init : decode (.req (reqWord 0x00#8 a b)) = .ok .init := by
  simp [decode, decodeRequest]

@[simp] theorem decode_reqWord_clear : decode (.req (reqWord 0x01#8 a b)) = .ok .clear := by
  simp [decode, decodeRequest]

@[simp] theorem decode_reqWord_writeChar : decode (.req (reqWord 0x02#8 a b)) = .ok (.writeChar b) := by
  simp [decode, decodeRequest]

@[simp] theorem decode_reqWord_setCursor : decode (.req (reqWord 0x03#8 a b)) = .ok (.setCursor a b) := by
  simp [decode, decodeRequest]

@[simp] theorem decode_reqWord_setDisplay :
    decode (.req (reqWord 0x04#8 a b)) = .ok (.setDisplay (boolOperand b)) := by
  simp [decode, decodeRequest]

@[simp] theorem decode_reqWord_setBacklight :
    decode (.req (reqWord 0x05#8 a b)) = .ok (.setBacklight (boolOperand b)) := by
  simp [decode, decodeRequest]

@[simp] theorem decode_reqWord_setCursorVisible :
    decode (.req (reqWord 0x06#8 a b)) = .ok (.setCursorVisible (boolOperand b)) := by
  simp [decode, decodeRequest]

@[simp] theorem decode_reqWord_setBlink :
    decode (.req (reqWord 0x07#8 a b)) = .ok (.setBlink (boolOperand b)) := by
  simp [decode, decodeRequest]

@[simp] theorem decode_reqWord_shiftDisplay :
    decode (.req (reqWord 0x08#8 a b)) = .ok (.shiftDisplay (boolOperand a) b.toNat) := by
  simp [decode, decodeRequest]

@[simp] theorem decode_reqWord_shiftCursor :
    decode (.req (reqWord 0x09#8 a b)) = .ok (.shiftCursor (boolOperand a) b.toNat) := by
  simp [decode, decodeRequest]

@[simp] theorem decode_reqWord_sendByte :
    decode (.req (reqWord 0x0A#8 a b)) =
      .ok (.sendByte b (modeOperand (a.getLsbD 0)) (settleOperand (a.getLsbD 1))) := by
  simp [decode, decodeRequest]

theorem decode_reqWord_reserved {op : Byte} (h : 0x0B ≤ op.toNat) :
    decode (.req (reqWord op a b)) = .error (.reservedOpcode op) := by
  simpa using decodeRequest_reserved (w := reqWord op a b) (by simpa using h)

end RequestWords

/-- Settles O9: the table's rows one by one, and the words whose opcode is in no row. -/
theorem requestWordsDecodeAsTabled : Obligations.RequestWordsDecodeAsTabled := by
  unfold Obligations.RequestWordsDecodeAsTabled
  refine ⟨fun a b => ?_, fun op a b hop => decode_reqWord_reserved a b hop, fun tm => ⟨rfl, rfl⟩⟩
  exact ⟨decode_reqWord_init a b, decode_reqWord_clear a b, decode_reqWord_writeChar a b,
    decode_reqWord_setCursor a b, decode_reqWord_setDisplay a b, decode_reqWord_setBacklight a b,
    decode_reqWord_setCursorVisible a b, decode_reqWord_setBlink a b, decode_reqWord_shiftDisplay a b,
    decode_reqWord_shiftCursor a b, decode_reqWord_sendByte a b⟩

/-- What a request word decodes to has an encoding: a shift count is read from its eight bits (R59). -/
theorem decodeRequest_wellFormed {w : ReqWord} {i : Instr} (h : decodeRequest w = .ok i) :
    i.wellFormed = true := by
  simp only [decodeRequest] at h
  split at h <;> cases h <;> simp [Instr.wellFormed, countFits_toNat]

/-! ### Command bytes -/

theorem decodeCommand_ddramByte (caller : Caller) (a : BitVec 7) :
    decodeCommand caller (ddramByte a) = .cmdDdram caller a := by
  have bits : (ddramByte a).getLsbD 7 = true ∧ (ddramByte a).extractLsb' 0 7 = a := by
    revert a; decide
  simp only [decodeCommand, bits, if_true]

theorem decodeCommand_cgramByte (caller : Caller) (a : BitVec 6) :
    decodeCommand caller (cgramByte a) = .cmdCgram caller a := by
  have bits : (cgramByte a).getLsbD 7 = false ∧ (cgramByte a).getLsbD 6 = true ∧
      (cgramByte a).extractLsb' 0 6 = a := by
    revert a; decide
  simp only [decodeCommand, bits, if_true, Bool.false_eq_true, if_false]

theorem decodeCommand_funcByte (caller : Caller) (dl n f : Bool) (x : BitVec 2) :
    decodeCommand caller (funcByte dl n f x) = .cmdFunc caller dl n f x := by
  have opcode : (funcByte dl n f x).getLsbD 7 = false ∧ (funcByte dl n f x).getLsbD 6 = false ∧
      (funcByte dl n f x).getLsbD 5 = true := by
    revert dl n f x; decide
  have operands : (funcByte dl n f x).getLsbD 4 = dl ∧ (funcByte dl n f x).getLsbD 3 = n ∧
      (funcByte dl n f x).getLsbD 2 = f ∧ (funcByte dl n f x).extractLsb' 0 2 = x := by
    revert dl n f x; decide
  simp only [decodeCommand, opcode, operands, if_true, Bool.false_eq_true, if_false]

theorem decodeCommand_shiftByte (caller : Caller) (sc rl : Bool) (x : BitVec 2) :
    decodeCommand caller (shiftByte sc rl x) = .cmdShift caller sc rl x := by
  have opcode : (shiftByte sc rl x).getLsbD 7 = false ∧ (shiftByte sc rl x).getLsbD 6 = false ∧
      (shiftByte sc rl x).getLsbD 5 = false ∧ (shiftByte sc rl x).getLsbD 4 = true := by
    revert sc rl x; decide
  have operands : (shiftByte sc rl x).getLsbD 3 = sc ∧ (shiftByte sc rl x).getLsbD 2 = rl ∧
      (shiftByte sc rl x).extractLsb' 0 2 = x := by
    revert sc rl x; decide
  simp only [decodeCommand, opcode, operands, if_true, Bool.false_eq_true, if_false]

theorem decodeCommand_dispctlByte (caller : Caller) (d c b : Bool) :
    decodeCommand caller (dispctlByte d c b) = .cmdDispctl caller d c b := by
  cases d <;> cases c <;> cases b <;> rfl

theorem decodeCommand_entryByte (caller : Caller) (incr shift : Bool) :
    decodeCommand caller (entryByte incr shift) = .cmdEntry caller incr shift := by
  cases incr <;> cases shift <;> rfl

theorem decodeCommand_otherByte (caller : Caller) (x : BitVec 2) :
    decodeCommand caller (otherByte x) = .cmdOther caller x := by
  have opcode : (otherByte x).getLsbD 7 = false ∧ (otherByte x).getLsbD 6 = false ∧
      (otherByte x).getLsbD 5 = false ∧ (otherByte x).getLsbD 4 = false ∧
      (otherByte x).getLsbD 3 = false ∧ (otherByte x).getLsbD 2 = false := by
    revert x; decide
  have operand : (otherByte x).extractLsb' 0 2 = x := by revert x; decide
  simp only [decodeCommand, opcode, operand, Bool.false_eq_true, if_false]

theorem otherByte_of_fields (v : Byte)
    (h : (v.getLsbD 7 || v.getLsbD 6 || v.getLsbD 5 || v.getLsbD 4 || v.getLsbD 3 || v.getLsbD 2) = false) :
    otherByte (v.extractLsb' 0 2) = v := by
  revert v; decide

/-- Each command byte is made of the bits that its row reads, so no bit of it is dropped (R53, R54). -/
theorem encode_decodeCommand (caller : Caller) (v : Byte) :
    encode (decodeCommand caller v) = .cmd v caller := by
  unfold decodeCommand
  split_ifs with h7 h6 h5 h4 h3 h2 <;> refine congrArg (Code.cmd · caller) ?_
  · revert v; decide
  · revert v; decide
  · revert v; decide
  · revert v; decide
  · revert v; decide
  · revert v; decide
  · exact otherByte_of_fields v (by simp [h7, h6, h5, h4, h3, h2, -BitVec.getLsbD_eq_getElem])

theorem decodeCommand_wellFormed (caller : Caller) (v : Byte) :
    (decodeCommand caller v).wellFormed = true := by
  unfold decodeCommand
  split_ifs <;> rfl

/-! ### Nibble bytes -/

theorem decode_nibbleByte_enable (data : Nibble) (bl rs : Bool) :
    decode (.nib (nibbleByte data bl true rs)) = .ok (.nibbleEnSet data bl rs) := by
  rw [decodeNibble_set (nibbleByte_readWrite ..) (nibbleByte_enable ..), nibbleByte_data,
    nibbleByte_backlight, nibbleByte_registerSelect]

theorem decode_nibbleByte_enableClear (data : Nibble) (bl rs : Bool) :
    decode (.nib (nibbleByte data bl false rs)) = .ok (.nibbleEnClr data bl rs) := by
  rw [decodeNibble_clr (nibbleByte_readWrite ..) (nibbleByte_enable ..), nibbleByte_data,
    nibbleByte_backlight, nibbleByte_registerSelect]

/-- Only a byte with ReadWrite clear decodes, to the write of that byte (R50, R61). -/
theorem encode_of_decode_nib {b : Byte} {i : Instr} (h : decode (.nib b) = .ok i) :
    encode i = .nib b ∧ i.wellFormed = true := by
  cases hrw : b.getLsbD 1 with
  | true => rw [decodeNibble_error hrw] at h; cases h
  | false =>
    have hb := nibbleByte_of_fields b hrw
    cases hen : b.getLsbD 2 with
    | true =>
      rw [decodeNibble_set hrw hen] at h; cases h
      rw [hen] at hb
      exact ⟨congrArg Code.nib hb, rfl⟩
    | false =>
      rw [decodeNibble_clr hrw hen] at h; cases h
      rw [hen] at hb
      exact ⟨congrArg Code.nib hb, rfl⟩

/-! ### Result codes -/

theorem encode_decodeResponse (c : RspCode) : encode (decodeResponse c) = .rsp c := by
  revert c; decide

theorem decodeResponse_wellFormed (c : RspCode) : (decodeResponse c).wellFormed = true := by
  revert c; decide

/-! ### The two directions -/

/-- Decoding gives back what was encoded, by the row of the instruction. -/
theorem decode_encode {i : Instr} (h : i.wellFormed = true) : decode (encode i) = .ok i := by
  cases i with
  | init => exact decode_reqWord_init ..
  | clear => exact decode_reqWord_clear ..
  | writeChar ch => exact decode_reqWord_writeChar ..
  | setCursor line column => exact decode_reqWord_setCursor ..
  | setDisplay on | setBacklight on | setCursorVisible on | setBlink on => simp [encode]
  | shiftDisplay right count | shiftCursor right count =>
    have hcount : (BitVec.ofNat 8 count).toNat = count := toNat_ofNat_count h
    simp only [encode, decode_reqWord_shiftDisplay, decode_reqWord_shiftCursor, boolOperand_boolField,
      hcount]
  | sendByte value mode settle =>
    simp only [encode, decode_reqWord_sendByte, modeOperand_sendByteField, settleOperand_sendByteField]
  | cmdDdram caller address => exact congrArg Except.ok (decodeCommand_ddramByte caller address)
  | cmdCgram caller address => exact congrArg Except.ok (decodeCommand_cgramByte caller address)
  | cmdFunc caller dl n f x => exact congrArg Except.ok (decodeCommand_funcByte caller dl n f x)
  | cmdShift caller sc rl x => exact congrArg Except.ok (decodeCommand_shiftByte caller sc rl x)
  | cmdDispctl caller d c b => exact congrArg Except.ok (decodeCommand_dispctlByte caller d c b)
  | cmdEntry caller incr shift => exact congrArg Except.ok (decodeCommand_entryByte caller incr shift)
  | cmdOther caller x => exact congrArg Except.ok (decodeCommand_otherByte caller x)
  | nibbleEnSet data bl rs => exact decode_nibbleByte_enable data bl rs
  | nibbleEnClr data bl rs => exact decode_nibbleByte_enableClear data bl rs
  | rspOk | rspInvalidArgument | rspTransportFailure | rspSequencingViolation => rfl

/-- Settles O6, by the row of the instruction. -/
theorem decodeOfEncodeIsTheInstruction : Obligations.DecodeOfEncodeIsTheInstruction := by
  unfold Obligations.DecodeOfEncodeIsTheInstruction
  exact fun _ h => decode_encode h

/-- What a code decodes to is well formed, and its encoding is that code unless the code is a request word,
whose ignored bits are dropped (R59). -/
theorem encode_of_decode {c : Code} {i : Instr} (h : decode c = .ok i) :
    i.wellFormed = true ∧ ((∀ w : ReqWord, c ≠ .req w) → encode i = c) := by
  cases c with
  | req w => exact ⟨decodeRequest_wellFormed h, fun hreq => absurd rfl (hreq w)⟩
  | cmd v caller => cases h; exact ⟨decodeCommand_wellFormed .., fun _ => encode_decodeCommand ..⟩
  | nib b => exact ⟨(encode_of_decode_nib h).2, fun _ => (encode_of_decode_nib h).1⟩
  | rsp c => cases h; exact ⟨decodeResponse_wellFormed c, fun _ => encode_decodeResponse c⟩

/-- Settles O7: what is decoded is well formed, so that its own code decodes to it. -/
theorem encodeOfDecodedIsTheCode : Obligations.EncodeOfDecodedIsTheCode := by
  unfold Obligations.EncodeOfDecodedIsTheCode
  intro c i h
  obtain ⟨hwf, hcode⟩ := encode_of_decode h
  exact ⟨hwf, hcode, decode_encode hwf⟩

/-- Settles O8: each word is evaluated. -/
theorem specWordsDecode : Obligations.SpecWordsDecode := by
  unfold Obligations.SpecWordsDecode
  exact ⟨rfl, rfl, rfl, rfl, rfl, rfl, rfl, rfl, rfl, rfl⟩

end Sys2Proof.Machine
end

section
/-! Queued writes are enable pulses (R61, R62, R70). -/

namespace Sys2Proof.Machine

variable {s t : State}

@[simp] theorem pulseShaped_nil : pulseShaped [] = true := rfl

/-- The two writes of a pulse, before any others. -/
@[simp] theorem pulseShaped_pulse (n : Nibble) (bl rs : Bool) (bs : List Byte) :
    pulseShaped (nibbleByte n bl true rs :: nibbleByte n bl false rs :: bs) = pulseShaped bs := by
  have hclear : nibbleByte n bl false rs = nibbleByte n bl true rs &&& 0xFB#8 := by
    revert n bl rs; decide
  simp only [pulseShaped, nibbleByte_enable, nibbleByte_readWrite, decide_eq_true hclear, Bool.not_false,
    Bool.true_and]

theorem repeated_succ (n : Nat) (es : List Event) : repeated (n + 1) es = es ++ repeated n es := by
  simp [repeated, List.replicate_succ]

/-- Transmissions, each two pulses, are pulses. -/
theorem pulseShaped_repeated_sendTrace (n : Nat) (t : CommandTable) (st : ControlState) (v : Byte) (m : Mode)
    (d : Nat) : pulseShaped (writes (repeated n (sendTrace t st v m d))) = true := by
  induction n with
  | zero => rfl
  | succ n ih =>
    rw [repeated_succ, writes_append, sendTrace_eq, writes_transmission, ← sendTrace_eq]
    simpa using ih

/-- INIT's raw pulses and full commands are pulses (R105, R107). -/
theorem pulseShaped_initItems (cfg : Config) (st : ControlState) :
    pulseShaped (writes (queueEvents (initItems cfg st))) = true := by
  simp [initItems, rawPulse_eq, fullCommand, items_sendTrace, singleNibble, transmission]

/-- Settles O43: a queue that is not the old one is made of transmissions, or is INIT's. -/
theorem queuedWritesAreEnablePulses : Obligations.QueuedWritesAreEnablePulses := by
  unfold Obligations.QueuedWritesAreEnablePulses
  intro i s t h hqueue
  obtain (⟨r, rfl⟩ | ⟨st, n, v, m, d, rfl, -⟩) | ⟨-, -, rfl⟩ | ⟨byte, rfl⟩ := exec_cases h
  · exact absurd (s.respond_queue r) hqueue
  · rw [State.accept_queue, queueEvents_items]
    exact pulseShaped_repeated_sendTrace ..
  · exact pulseShaped_initItems ..
  · exact absurd (s.emitWrite_queue byte _) hqueue

end Sys2Proof.Machine
end

section
/-! WRITE_STRING (R64, R95): the run of one WRITE_CHAR, runs one after another, and the result of the
string. -/

namespace Sys2Proof.Machine

variable {s t u : State}

/-- What the run of a string takes an idle block `s` to: the characters' requests are taken and their
transmissions emitted, with one response and four answers drawn for each (R64, R87, R95). -/
structure WroteString (cs : List Byte) (s t : State) : Prop where
  input : s.input = writeString cs ++ t.input
  trace : t.trace = s.trace ++ cs.flatMap fun c =>
    queueEvents (transmission (c.extractLsb' 4 4) (c.extractLsb' 0 4) s.st.backlightOn true
      s.cfg.timing.fastDelay)
  responses : t.responses = s.responses ++ (List.range cs.length).map fun i =>
    if someFail s.cfg.identity (s.draws + 4 * i) 4 then 2#2 else 0#2
  draws : t.draws = s.draws + 4 * cs.length
  busy : t.busy = s.busy
  st : t.st = s.st
  phase : t.phase = s.phase
  cfg : t.cfg = s.cfg
  resetIn : t.resetIn = s.resetIn
  stalled : t.stalled = s.stalled

theorem WroteString.nil (s : State) : WroteString [] s s := by
  constructor <;> simp [writeString]

/-- A character and then a string. -/
theorem WroteString.cons {c : Byte} {cs : List Byte} (hc : WroteString [c] s u) (hcs : WroteString cs u t) :
    WroteString (c :: cs) s t where
  input := by rw [hc.input, hcs.input]; rfl
  trace := by simp [hcs.trace, hc.trace, hc.st, hc.cfg]
  responses := by
    simp [hcs.responses, hc.responses, hc.cfg, hc.draws, List.range_succ_eq_map, Nat.mul_add,
      Nat.add_assoc, Nat.add_comm 4]
  draws := by simp [hcs.draws, hc.draws, Nat.mul_add, Nat.add_assoc, Nat.add_comm 4]
  busy := hcs.busy.trans hc.busy
  st := hcs.st.trans hc.st
  phase := hcs.phase.trans hc.phase
  cfg := hcs.cfg.trans hc.cfg
  resetIn := hcs.resetIn.trans hc.resetIn
  stalled := hcs.stalled.trans hc.stalled

/-- A WRITE_CHAR at an idle block is accepted with the Data-mode transmission of its character (R87). -/
theorem step_writeChar {c : Byte} {codes : List Code} (hrun : Runnable s)
    (hp : Presented s (encode (.writeChar c)) codes) :
    step s = .next (accepted s.st
      (transmission (c.extractLsb' 4 4) (c.extractLsb' 0 4) s.st.backlightOn true s.cfg.timing.fastDelay)
      (s.setInput codes)) := by
  rw [step_presented hp, runCode_of_decode (decode_encode rfl)]
  have hrun' : Runnable (s.setInput codes) := hrun
  exact (prelude_of_runnable hrun' _).trans (transmit_one rfl _ _)

/-- A WRITE_CHAR runs in ten steps: its acceptance, eight events and the response. -/
theorem runSteps_writeChar {c : Byte} {codes : List Code} (hs : s.stalled = false) (hrun : Runnable s)
    (hp : Presented s (encode (.writeChar c)) codes) :
    ∃ t, runSteps 10 s = .next t ∧ WroteString [c] s t ∧ t.input = codes := by
  have ⟨hb, hr, hinput⟩ := hp
  have haccept := step_writeChar hrun hp
  refine ⟨_, (runSteps_succ haccept).trans (runSteps_to_response hr hs rfl ?_), ?_, rfl⟩
  · rw [accepted, writes_transmission]
    simp [nibbleByte_readWrite, -BitVec.getLsbD_eq_getElem]
  · exact
      { input := hinput
        trace := by simp [State.drained, accepted, State.respond]
        responses := by simp [State.drained, accepted, State.respond, completion_code, writes_transmission]
        draws := rfl
        busy := hb.symm
        st := rfl
        phase := rfl
        cfg := rfl
        resetIn := rfl
        stalled := rfl }

/-- The characters of a string run one after another. -/
theorem runSteps_writeString {cs : List Byte} {rest : List Code} (hr : s.resetIn = false)
    (hs : s.stalled = false) (hb : s.busy = false) (hrun : Runnable s)
    (hinput : s.input = writeString cs ++ rest) :
    ∃ t, runSteps (10 * cs.length) s = .next t ∧ WroteString cs s t := by
  induction cs generalizing s with
  | nil => exact ⟨s, rfl, .nil s⟩
  | cons c cs ih =>
    obtain ⟨u, hcrun, hc, hu⟩ := runSteps_writeChar hs hrun ⟨hb, hr, hinput⟩
    have hurun : Runnable u := by rwa [Runnable, hc.cfg, hc.phase]
    obtain ⟨t, hcsrun, hcs⟩ :=
      ih (hc.resetIn.trans hr) (hc.stalled.trans hs) (hc.busy.trans hb) hurun hu
    refine ⟨t, ?_, hc.cons hcs⟩
    rw [List.length_cons, Nat.mul_add, Nat.add_comm, runSteps_add _ hcrun, hcsrun]

theorem stringResult_cons (r : RspCode) (rs : List RspCode) :
    stringResult (r :: rs) = if r = 0#2 then stringResult rs else r := by
  by_cases h : r = 0#2 <;> simp [stringResult, h]

theorem someFail_add (id : Identity) (n j k : Nat) :
    someFail id n (j + k) = (someFail id n j || someFail id (n + j) k) := by
  induction j generalizing n with
  | zero => simp [someFail]
  | succ j ih =>
    rw [Nat.succ_add, someFail_succ, someFail_succ, ih, Bool.or_assoc, Nat.add_right_comm n 1 j,
      Nat.add_assoc n j 1]

/-- The string's result is TRANSPORT_FAILURE when one of the writes of one of its characters failed (R95). -/
theorem stringResult_responses (id : Identity) (n k : Nat) :
    stringResult ((List.range k).map fun i => if someFail id (n + 4 * i) 4 then 2#2 else 0#2) =
      if someFail id n (4 * k) then 2#2 else 0#2 := by
  induction k generalizing n with
  | zero => rfl
  | succ k ih =>
    rw [List.range_succ_eq_map, List.map_cons, List.map_map, stringResult_cons, Nat.mul_add,
      Nat.add_comm (4 * k), someFail_add]
    cases someFail id n 4 with
    | true => simp
    | false =>
      simpa [Function.comp_def, Nat.mul_add, Nat.add_assoc, Nat.add_comm 4] using ih (n + 4)

/-- Settles O38, by induction over the characters: each runs in ten steps, and leaves an idle block with the
rest of the string before it. -/
theorem writeStringSendsItsCharacters : Obligations.WriteStringSendsItsCharacters := by
  unfold Obligations.WriteStringSendsItsCharacters
  refine ⟨rfl, fun cs rest s hr hs hb hrun hinput => ?_⟩
  obtain ⟨t, hsteps, h⟩ := runSteps_writeString hr hs hb hrun hinput
  have hrest : t.input = rest := List.append_cancel_left (h.input.symm.trans hinput)
  refine ⟨t, hsteps, h.trace, h.responses, ?_, hrest, h.busy.trans hb, h.st, h.phase, h.cfg⟩
  rw [h.responses, List.drop_left, stringResult_responses]

end Sys2Proof.Machine
end

section
/-! The families of command bytes, the control bits and the nibble split (R51, R52, R53), and what the
instructions of levels M and W and of the response port do (R54, R60, R70, R73, R74). -/

namespace Sys2Proof.Machine

variable {s : State}

/-! ### The families (R53) -/

/-- The families of the default table, by the ranges of values. -/
theorem family_hd44780 (v : Byte) :
    family CommandTable.hd44780 v =
      if 0x80 ≤ v.toNat then .ddram
      else if 0x40 ≤ v.toNat then .cgram
      else if 0x20 ≤ v.toNat then .func
      else if 0x10 ≤ v.toNat then .shift
      else if 0x08 ≤ v.toNat then .dispctl
      else if 0x04 ≤ v.toNat then .entry
      else .other := by
  revert v; decide

theorem family_hd44780_ranges (v : Byte) :
    (family CommandTable.hd44780 v = .ddram ↔ 0x80 ≤ v.toNat) ∧
    (family CommandTable.hd44780 v = .cgram ↔ 0x40 ≤ v.toNat ∧ v.toNat ≤ 0x7F) ∧
    (family CommandTable.hd44780 v = .func ↔ 0x20 ≤ v.toNat ∧ v.toNat ≤ 0x3F) ∧
    (family CommandTable.hd44780 v = .shift ↔ 0x10 ≤ v.toNat ∧ v.toNat ≤ 0x1F) ∧
    (family CommandTable.hd44780 v = .dispctl ↔ 0x08 ≤ v.toNat ∧ v.toNat ≤ 0x0F) ∧
    (family CommandTable.hd44780 v = .entry ↔ 0x04 ≤ v.toNat ∧ v.toNat ≤ 0x07) ∧
    (family CommandTable.hd44780 v = .other ↔ v.toNat ≤ 0x03) := by
  rw [family_hd44780]
  split_ifs <;> simp <;> omega

/-- Each pair of a mask and a match of the table cuts out a range of bytes. -/
theorem mask_match_iff_range (v : Byte) :
    (v &&& 0x80#8 = 0x80#8 ↔ 0x80 ≤ v.toNat) ∧
    (v &&& 0xC0#8 = 0x40#8 ↔ 0x40 ≤ v.toNat ∧ v.toNat ≤ 0x7F) ∧
    (v &&& 0xE0#8 = 0x20#8 ↔ 0x20 ≤ v.toNat ∧ v.toNat ≤ 0x3F) ∧
    (v &&& 0xF0#8 = 0x10#8 ↔ 0x10 ≤ v.toNat ∧ v.toNat ≤ 0x1F) ∧
    (v &&& 0xF8#8 = 0x08#8 ↔ 0x08 ≤ v.toNat ∧ v.toNat ≤ 0x0F) ∧
    (v &&& 0xFC#8 = 0x04#8 ↔ 0x04 ≤ v.toNat ∧ v.toNat ≤ 0x07) ∧
    (v &&& 0xFC#8 = 0x00#8 ↔ v.toNat ≤ 0x03) := by
  revert v; decide

/-- Settles O10: the mask and match of a family and the family itself are the same range. -/
theorem familiesAreTheTable : Obligations.FamiliesAreTheTable := by
  unfold Obligations.FamiliesAreTheTable
  refine ⟨fun v => ?_, rfl, rfl, fun st v ctx hv => ?_⟩
  · obtain ⟨ddram, cgram, func, shift, dispctl, entry, other⟩ := mask_match_iff_range v
    rw [ddram, cgram, func, shift, dispctl, entry, other]
    obtain ⟨ddram, cgram, func, shift, dispctl, entry, other⟩ := family_hd44780_ranges v
    exact ⟨ddram, cgram, func, shift, dispctl, entry, other,
      ddram, cgram, func, shift, dispctl, entry, other⟩
  · obtain ⟨-, -, -, -, -, -, other⟩ := family_hd44780_ranges v
    simp [inject, other.2 hv, admitted]

/-! ### The control bits and the nibble split (R51, R52) -/

theorem nibbleByte_eq_shiftLeft_or_ctl (d : Nibble) (m : Mode) (bl : Bool) :
    nibbleByte d bl false (isData m) = (d.setWidth 8 <<< 4) ||| ctl m bl := by
  cases m <;> revert d bl <;> decide

theorem hiData_append (hi lo : Nibble) : hiData (hi ++ lo) = hi ++ 0#4 := by
  revert hi lo; decide

theorem loData_append (hi lo : Nibble) : loData (hi ++ lo) = lo ++ 0#4 := by
  revert hi lo; decide

/-- Settles O11: the values of `ctl` and of the mask are evaluated, and Enable is ORed into the nibble
byte. -/
theorem controlBitsAndNibbleSplit : Obligations.ControlBitsAndNibbleSplit := by
  unfold Obligations.ControlBitsAndNibbleSplit
  refine ⟨by decide, fun d m bl => ⟨nibbleByte_eq_shiftLeft_or_ctl d m bl, ?_⟩, fun hi lo => ?_⟩
  · exact (nibbleByte_or_enable d bl (isData m)).symm
  · exact ⟨hiData_append hi lo, loData_append hi lo⟩

/-! ### The command bytes (R54, R73, R74) -/

theorem family_ddramByte (a : BitVec 7) : family CommandTable.hd44780 (ddramByte a) = .ddram := by
  revert a; decide

theorem family_funcByte (dl n f : Bool) (x : BitVec 2) :
    family CommandTable.hd44780 (funcByte dl n f x) = .func := by
  revert dl n f x; decide

theorem family_shiftByte (sc rl : Bool) (x : BitVec 2) :
    family CommandTable.hd44780 (shiftByte sc rl x) = .shift := by
  revert sc rl x; decide

theorem family_dispctlByte (d c b : Bool) : family CommandTable.hd44780 (dispctlByte d c b) = .dispctl := by
  revert d c b; decide

theorem family_entryByte (incr shift : Bool) :
    family CommandTable.hd44780 (entryByte incr shift) = .entry := by
  revert incr shift; decide

theorem family_otherByte (x : BitVec 2) : family CommandTable.hd44780 (otherByte x) = .other := by
  revert x; decide

/-- The default positions put the shift flags at bits 3 and 2 (R56, R73). -/
theorem inject_of_family_shift (st : ControlState) {v : Byte} (h : family CommandTable.hd44780 v = .shift) :
    inject CommandTable.hd44780 st v =
      BitVec.ofBool st.shiftTargetIsDisplay ++ BitVec.ofBool st.shiftDirectionRight ++ 0#2 := by
  rw [inject, h]
  cases st.shiftTargetIsDisplay <;> cases st.shiftDirectionRight <;> rfl

/-- The default positions put the display-control flags at bits 2, 1 and 0 (R56, R73). -/
theorem inject_of_family_dispctl (st : ControlState) {v : Byte}
    (h : family CommandTable.hd44780 v = .dispctl) :
    inject CommandTable.hd44780 st v =
      0#1 ++ BitVec.ofBool st.displayOn ++ BitVec.ofBool st.cursorVisible ++ BitVec.ofBool st.blinking := by
  rw [inject, h]
  cases st.displayOn <;> cases st.cursorVisible <;> cases st.blinking <;> rfl

/-- The default positions put the entry-mode flags at bits 1 and 0 (R56, R73). -/
theorem inject_of_family_entry (st : ControlState) {v : Byte} (h : family CommandTable.hd44780 v = .entry) :
    inject CommandTable.hd44780 st v =
      0#2 ++ BitVec.ofBool st.cursorDirection ++ BitVec.ofBool st.displayShiftOnWrite := by
  rw [inject, h]
  cases st.cursorDirection <;> cases st.displayShiftOnWrite <;> rfl

/-- A command byte made of the nibbles `hi` and `lo`, of an admitted family `f` with the shadow bits `e`, is
transmitted with `e` ORed into its low nibble (R71, R73, R74). -/
theorem sendCommand_accepted {caller : Caller} {v : Byte} {f : Family} {hi lo e : Nibble}
    (htabled : Tabled s.cfg) (hfamily : family CommandTable.hd44780 v = f)
    (hadmitted : admitted f caller.ctx = true) (hinject : inject CommandTable.hd44780 s.st v = e)
    (hv : v = hi ++ lo) :
    sendCommand caller v s =
      .next (accepted s.st
        (transmission hi (lo ||| e) s.st.backlightOn false (settleDelay s.cfg.timing caller.settle)) s) := by
  obtain ⟨htable, -⟩ := htabled
  have hsend : sendAdmitted s.cfg.table .command v caller.ctx = true := by
    rw [htable, sendAdmitted, hfamily, hadmitted]
  have hhigh : v.extractLsb' 4 4 = hi := hv ▸ BitVec.extractLsb'_append_eq_left
  have hlow : v.extractLsb' 0 4 = lo := hv ▸ BitVec.extractLsb'_append_eq_right
  rw [sendCommand, transmit_one hsend, loNibble, htable, hinject, hhigh, hlow]
  rfl

/-- A command byte of an admitted family with no shadow bits is transmitted as it is. -/
theorem sendCommand_uninjected {caller : Caller} {v : Byte} {f : Family} {hi lo : Nibble}
    (htabled : Tabled s.cfg) (hfamily : family CommandTable.hd44780 v = f)
    (hadmitted : admitted f caller.ctx = true) (hinject : inject CommandTable.hd44780 s.st v = 0#4)
    (hv : v = hi ++ lo) :
    sendCommand caller v s =
      .next (accepted s.st
        (transmission hi lo s.st.backlightOn false (settleDelay s.cfg.timing caller.settle)) s) := by
  simpa using sendCommand_accepted htabled hfamily hadmitted hinject hv

/-- Settles O27: the families in turn, each admitted, and none with shadow bits. -/
theorem uninjectedCommandsAreSentAsGiven : Obligations.UninjectedCommandsAreSentAsGiven := by
  unfold Obligations.UninjectedCommandsAreSentAsGiven
  refine fun x ctx s htabled => ⟨fun a lo => ?_, fun y => ?_, fun dl n f y => ?_⟩
  · refine sendCommand_uninjected htabled (family_ddramByte _) rfl (by rw [inject, family_ddramByte]) ?_
    revert a lo; decide
  · refine sendCommand_uninjected htabled (family_otherByte y) rfl (by rw [inject, family_otherByte]) ?_
    revert y; decide
  · refine sendCommand_uninjected htabled (family_funcByte dl n f y) rfl (by rw [inject, family_funcByte]) ?_
    revert dl n f y; decide

/-- Settles O28: the families in turn, each admitted, with its own flags ORed into its parameter bits. -/
theorem shadowedCommandsCarryTheFlags : Obligations.ShadowedCommandsCarryTheFlags := by
  unfold Obligations.ShadowedCommandsCarryTheFlags
  refine fun x ctx s htabled => ⟨fun sc rl y => ?_, fun d c b => ?_, fun i sh => ?_⟩
  · have hv : shiftByte sc rl y = 0x1#4 ++ (BitVec.ofBool sc ++ BitVec.ofBool rl ++ y) := by
      revert sc rl y; decide
    have hshadow (target right : Bool) :
        BitVec.ofBool sc ++ BitVec.ofBool rl ++ y ||| BitVec.ofBool target ++ BitVec.ofBool right ++ 0#2 =
          BitVec.ofBool (sc || target) ++ BitVec.ofBool (rl || right) ++ y := by
      revert sc rl y target right; decide
    rw [← hshadow]
    exact sendCommand_accepted htabled (family_shiftByte sc rl y) rfl
      (inject_of_family_shift s.st (family_shiftByte sc rl y)) hv
  · have hv : dispctlByte d c b =
        0x0#4 ++ (1#1 ++ BitVec.ofBool d ++ BitVec.ofBool c ++ BitVec.ofBool b) := by
      revert d c b; decide
    have hshadow (on visible blinking : Bool) :
        1#1 ++ BitVec.ofBool d ++ BitVec.ofBool c ++ BitVec.ofBool b |||
            0#1 ++ BitVec.ofBool on ++ BitVec.ofBool visible ++ BitVec.ofBool blinking =
          1#1 ++ BitVec.ofBool (d || on) ++ BitVec.ofBool (c || visible) ++
            BitVec.ofBool (b || blinking) := by
      revert d c b on visible blinking; decide
    rw [← hshadow]
    exact sendCommand_accepted htabled (family_dispctlByte d c b) rfl
      (inject_of_family_dispctl s.st (family_dispctlByte d c b)) hv
  · have hv : entryByte i sh = 0x0#4 ++ (0b01#2 ++ BitVec.ofBool i ++ BitVec.ofBool sh) := by
      revert i sh; decide
    have hshadow (direction shift : Bool) :
        0b01#2 ++ BitVec.ofBool i ++ BitVec.ofBool sh |||
            0#2 ++ BitVec.ofBool direction ++ BitVec.ofBool shift =
          0b01#2 ++ BitVec.ofBool (i || direction) ++ BitVec.ofBool (sh || shift) := by
      revert i sh direction shift; decide
    rw [← hshadow]
    exact sendCommand_accepted htabled (family_entryByte i sh) rfl
      (inject_of_family_entry s.st (family_entryByte i sh)) hv

/-! ### Nibble bytes and result codes (R50, R60) -/

/-- Settles O30: each of the two instructions is the write of its nibble byte, whose fields are those
written out. -/
theorem nibbleBytesAreWrittenOnce : Obligations.NibbleBytesAreWrittenOnce := by
  unfold Obligations.NibbleBytesAreWrittenOnce
  exact fun data bl rs s => ⟨rfl, rfl⟩

/-- Settles O31: each of the four instructions completes with its result. -/
theorem resultCodesArePresented : Obligations.ResultCodesArePresented := by
  unfold Obligations.ResultCodesArePresented
  exact fun s => ⟨complete_eq .ok s, complete_eq .invalidArgument s, complete_eq .transportFailure s,
    complete_eq .sequencingViolation s⟩

end Sys2Proof.Machine
end

section
/-! The transmission engine (R70, R71, R73, R74, R77, R78): one `sendByte`, from an enable pulse to the byte
that the controller reassembles, and the family guard before it. -/

namespace Sys2Proof.Machine

variable {s : State}

/-! ### The enable pulse (R70) -/

/-- Settles O12: ORing Enable into a nibble byte sets it, and masking it out leaves the byte as it was. -/
theorem pulseSetsThenClearsEnable : Obligations.PulseSetsThenClearsEnable := by
  unfold Obligations.PulseSetsThenClearsEnable
  exact pulse_nibbleByte

/-! ### The shadow bits (R73) -/

/-- The values of the four families with no shadow flags get no bits (R73). -/
theorem inject_eq_zero (st : ControlState) {v : Byte} (h : 0x20 ≤ v.toNat ∨ v.toNat ≤ 0x03) :
    inject CommandTable.hd44780 st v = 0#4 := by
  obtain ⟨ddram, cgram, func, -, -, -, other⟩ := family_hd44780_ranges v
  have hfamily : family CommandTable.hd44780 v = .ddram ∨ family CommandTable.hd44780 v = .cgram ∨
      family CommandTable.hd44780 v = .func ∨ family CommandTable.hd44780 v = .other := by
    rw [ddram, cgram, func, other]
    omega
  obtain hf | hf | hf | hf := hfamily <;> rw [inject, hf]

/-- A `sendByte` of the byte made of two nibbles transmits the high one as it is (R71). -/
theorem items_sendTrace_append (t : CommandTable) (st : ControlState) (hi lo : Nibble) (m : Mode) (d : Nat) :
    items (sendTrace t st (hi ++ lo) m d) =
      transmission hi (loNibble t st (hi ++ lo) m) st.backlightOn (isData m) d := by
  rw [items_sendTrace, BitVec.extractLsb'_append_eq_left]

theorem loNibble_append_command (t : CommandTable) (st : ControlState) (hi lo : Nibble) :
    loNibble t st (hi ++ lo) .command = lo ||| inject t st (hi ++ lo) := by
  rw [loNibble, BitVec.extractLsb'_append_eq_right]

theorem loNibble_append_data (t : CommandTable) (st : ControlState) (hi lo : Nibble) :
    loNibble t st (hi ++ lo) .data = lo := by
  rw [loNibble, BitVec.extractLsb'_append_eq_right]

/-- Settles O13: the range of a value is its family, and the low nibble of a transmission carries what the
family injects. -/
theorem shadowBitsGoIntoTheLowNibble : Obligations.ShadowBitsGoIntoTheLowNibble := by
  unfold Obligations.ShadowBitsGoIntoTheLowNibble
  refine ⟨fun st v => ?_, fun st hi lo d => ⟨?_, ?_⟩⟩
  · obtain ⟨-, -, -, shift, dispctl, entry, -⟩ := family_hd44780_ranges v
    exact ⟨inject_eq_zero st,
      fun hlow hhigh => inject_of_family_shift st (shift.2 ⟨hlow, hhigh⟩),
      fun hlow hhigh => inject_of_family_dispctl st (dispctl.2 ⟨hlow, hhigh⟩),
      fun hlow hhigh => inject_of_family_entry st (entry.2 ⟨hlow, hhigh⟩)⟩
  · rw [items_sendTrace_append, loNibble_append_command]
    rfl
  · rw [items_sendTrace_append, loNibble_append_data]
    rfl

/-! ### What the controller reassembles (R44, R77, R78) -/

/-- The controller receives one byte from a `sendByte`, made of the two nibbles transmitted (R44, R71). -/
theorem received_sendTrace (t : CommandTable) (st : ControlState) (v : Byte) (m : Mode) (d : Nat) :
    received (sendTrace t st v m d) = [(isData m, v.extractLsb' 4 4 ++ loNibble t st v m)] := by
  rw [sendTrace_eq, received, latched_transmission_last, assembled_pair, assembled_nil]

theorem received_sendTrace_command (t : CommandTable) (st : ControlState) (v : Byte) (d : Nat) :
    received (sendTrace t st v .command d) = [(false, eff t st v)] := by
  rw [received_sendTrace, loNibble, high_append_low_eq_or]
  rfl

theorem received_sendTrace_data (t : CommandTable) (st : ControlState) (v : Byte) (d : Nat) :
    received (sendTrace t st v .data d) = [(true, v)] := by
  have hjoin : v.extractLsb' 4 4 ++ v.extractLsb' 0 4 = v := by
    simpa using high_append_low_eq_or v 0#4
  rw [received_sendTrace, loNibble, hjoin]
  rfl

/-- The entry-mode opcode takes on its two flags (R73). -/
theorem eff_opEntry (st : ControlState) :
    eff CommandTable.hd44780 st CommandTable.hd44780.opEntry =
      entryByte st.cursorDirection st.displayShiftOnWrite := by
  rw [eff, inject_of_family_entry st (by decide)]
  cases st.cursorDirection <;> cases st.displayShiftOnWrite <;> rfl

theorem eff_eq_self (st : ControlState) {v : Byte} (h : 0x20 ≤ v.toNat ∨ v.toNat ≤ 0x03) :
    eff CommandTable.hd44780 st v = v := by
  simp [eff, inject_eq_zero st h]

/-- Settles O15: the two latched nibbles joined are the value with the injected bits, and the injected bits
of an opcode are its flags. -/
theorem controllerReassemblesTheEffectiveByte : Obligations.ControllerReassemblesTheEffectiveByte := by
  unfold Obligations.ControllerReassemblesTheEffectiveByte
  refine ⟨fun t st v d => ?_, fun st => ?_, fun st v => eff_eq_self st⟩
  · exact ⟨received_sendTrace_command t st v d, received_sendTrace_command t st v d,
      received_sendTrace_data t st v d⟩
  · exact ⟨eff_opShift st, eff_opDispctl st, eff_opEntry st⟩

/-! ### The instructions that are one `sendByte` (R71, R75) -/

/-- An instruction whose code is a command byte is the Command-mode `sendByte` of that byte (R54, R71). -/
theorem exec_of_encode_eq_cmd {i : Instr} {v : Byte} {caller : Caller} (h : encode i = .cmd v caller)
    (s : State) : exec i s = sendCommand caller v s := by
  cases i with
  | init | clear | writeChar | setCursor | setDisplay | setBacklight | setCursorVisible | setBlink
  | shiftDisplay | shiftCursor | sendByte | nibbleEnSet | nibbleEnClr | rspOk | rspInvalidArgument
  | rspTransportFailure | rspSequencingViolation =>
    cases h
  | cmdDdram | cmdCgram | cmdFunc | cmdShift | cmdDispctl | cmdEntry | cmdOther =>
    cases h
    rfl

/-- The instruction of a command byte sends that byte, whatever its family. -/
theorem exec_decodeCommand (caller : Caller) (v : Byte) (s : State) :
    exec (decodeCommand caller v) s = sendCommand caller v s :=
  exec_of_encode_eq_cmd (encode_decodeCommand caller v) s

theorem exec_sendByte_command (hrun : Runnable s) (v : Byte) (x : Settle) :
    exec (.sendByte v .command x) s = sendCommand ⟨x, .host⟩ v s :=
  prelude_of_runnable hrun _

/-- In Data mode a value is sent with no guard and no shadow bits (R78). -/
theorem exec_sendByte_data (hrun : Runnable s) (v : Byte) (x : Settle) :
    exec (.sendByte v .data x) s =
      .next (accepted s.st
        (transmission (v.extractLsb' 4 4) (v.extractLsb' 0 4) s.st.backlightOn true
          (settleDelay s.cfg.timing x)) s) :=
  (prelude_of_runnable hrun _).trans (transmit_one rfl s.st _)

/-- Settles O50: both are the Command-mode `sendByte` of the value from the host. -/
theorem sendByteRunsTheCommandByte : Obligations.SendByteRunsTheCommandByte := by
  unfold Obligations.SendByteRunsTheCommandByte
  intro v x s hrun
  rw [exec_sendByte_command hrun, exec_decodeCommand]

/-! ### The family guard (R74) -/

theorem family_cgramByte (a : BitVec 6) : family CommandTable.hd44780 (cgramByte a) = .cgram := by
  revert a; decide

theorem admitted_iff (f : Family) (ctx : Context) :
    admitted f ctx = true ↔ ¬(f = .cgram ∨ f = .func ∧ ctx = .host) := by
  cases f <;> cases ctx <;> simp [admitted]

/-- What a caller may send in Command mode at the default table, by the range of the value (R53, R74). -/
theorem sendAdmitted_hd44780_command (v : Byte) (ctx : Context) :
    sendAdmitted CommandTable.hd44780 .command v ctx = true ↔
      ¬(0x40 ≤ v.toNat ∧ v.toNat ≤ 0x7F ∨ 0x20 ≤ v.toNat ∧ v.toNat ≤ 0x3F ∧ ctx = .host) := by
  obtain ⟨-, cgram, func, -⟩ := family_hd44780_ranges v
  rw [sendAdmitted, admitted_iff, cgram, func, and_assoc]

/-- A command byte that the guard rejects completes with INVALID_ARGUMENT (R71, R74). -/
theorem sendCommand_of_rejected {caller : Caller} {v : Byte} (htabled : Tabled s.cfg)
    (h : sendAdmitted CommandTable.hd44780 .command v caller.ctx = false) :
    sendCommand caller v s = .next (responded 1#2 s) :=
  transmit_of_rejected (htabled.1 ▸ h) s.st 1 _

/-- A command byte that the guard admits is accepted with the eight events of a transmission (R71, R74). -/
theorem sendCommand_of_admitted {caller : Caller} {v : Byte} (htabled : Tabled s.cfg)
    (h : sendAdmitted CommandTable.hd44780 .command v caller.ctx = true) :
    ∃ q, sendCommand caller v s = .next (accepted s.st q s) ∧ (queueEvents q).length = 8 :=
  ⟨_, transmit_one (htabled.1 ▸ h) s.st _, rfl⟩

/-- Settles O29: the two families are those that the guard rejects from these callers. -/
theorem unsupportedCommandsAreRejected : Obligations.UnsupportedCommandsAreRejected := by
  unfold Obligations.UnsupportedCommandsAreRejected
  refine fun x ctx s htabled => ⟨fun a => ?_, fun dl n f y => ?_⟩
  · exact sendCommand_of_rejected htabled (by rw [sendAdmitted, family_cgramByte, admitted])
  · exact sendCommand_of_rejected htabled (by rw [sendAdmitted, family_funcByte]; rfl)

/-- Settles O14: the guard is decided by the range of the value and the context, and decides whether the
byte is rejected or transmitted. -/
theorem familyGuardRejectsOrSends : Obligations.FamilyGuardRejectsOrSends := by
  unfold Obligations.FamilyGuardRejectsOrSends
  refine ⟨fun s v caller htabled => ?_, fun s v x htabled hrun => ⟨fun hrange => ?_, ?_⟩⟩
  · rw [exec_decodeCommand]
    refine ⟨fun hrange => sendCommand_of_rejected htabled ?_, fun hrange => sendCommand_of_admitted htabled ?_⟩
    · rw [← Bool.not_eq_true, sendAdmitted_hd44780_command, not_not]
      exact hrange
    · rwa [sendAdmitted_hd44780_command]
  · exact exec_of_operandsRejected htabled hrun ⟨rfl, hrange⟩
  · exact ⟨_, exec_sendByte_data hrun v x, rfl⟩

/-! ### SEND_BYTE (R75) -/

/-- The values that the host may not send in Command mode, by their high nibble. -/
theorem rejected_range_iff_high (hi lo : Nibble) :
    0x20 ≤ (hi ++ lo).toNat ∧ (hi ++ lo).toNat ≤ 0x7F ↔ 2 ≤ hi.toNat ∧ hi.toNat < 8 := by
  revert hi lo; decide

/-- Settles O25: the high nibble decides whether the guard admits a Command value; a Data value always
passes. -/
theorem sendByteSendsTheValueOrRejects : Obligations.SendByteSendsTheValueOrRejects := by
  unfold Obligations.SendByteSendsTheValueOrRejects
  refine fun hi lo x s htabled hrun => ⟨fun hhigh => ?_, fun hhigh => ?_, ?_⟩
  · have hadmitted : sendAdmitted CommandTable.hd44780 .command (hi ++ lo) .host = true := by
      rw [sendAdmitted_hd44780_command_host, rejected_range_iff_high]
      omega
    rw [exec_sendByte_command hrun]
    exact sendCommand_accepted htabled rfl hadmitted rfl rfl
  · exact exec_of_operandsRejected htabled hrun ⟨rfl, (rejected_range_iff_high hi lo).2 hhigh⟩
  · rw [exec_sendByte_data hrun, BitVec.extractLsb'_append_eq_left, BitVec.extractLsb'_append_eq_right]
    rfl

end Sys2Proof.Machine
end

section
/-! The requests of the Command Layer but SEND_BYTE, each from its code to the queue it is accepted with (R86 to
R94), and the loop of R95. -/

namespace Sys2Proof.Machine

variable {s : State}

/-! ### One byte, no flag written (R86 to R88) -/

/-- CLEAR is the Command-mode `sendByte` of the Clear-Display opcode with the slow delay (R86). -/
theorem exec_clear (hrun : Runnable s) : exec .clear s = sendCommand ⟨.slow, .host⟩ s.cfg.table.opClear s :=
  prelude_of_runnable hrun _

/-- Settles O16: the opcode is of the family OTHER, which has no shadow bits. -/
theorem clearSendsClearWithTheSlowDelay : Obligations.ClearSendsClearWithTheSlowDelay := by
  unfold Obligations.ClearSendsClearWithTheSlowDelay
  intro s htabled hrun
  have hfamily : family CommandTable.hd44780 CommandTable.hd44780.opClear = .other := by decide
  rw [exec_clear hrun, htabled.1]
  exact sendCommand_uninjected htabled hfamily rfl (by rw [inject, hfamily]) rfl

/-- Settles O17: WRITE_CHAR is a Data-mode transmission, which has no guard and no shadow bits. -/
theorem writeCharSendsTheCharacter : Obligations.WriteCharSendsTheCharacter := by
  unfold Obligations.WriteCharSendsTheCharacter
  intro hi lo s hrun
  have hsent := exec_sendByte_data hrun (hi ++ lo) .fast
  rwa [BitVec.extractLsb'_append_eq_left, BitVec.extractLsb'_append_eq_right] at hsent

/-- SET_CURSOR to a position in range is the Command-mode `sendByte` of its address (R88). -/
theorem exec_setCursor_of_inRange (hrun : Runnable s) {line column : Byte}
    (hrange : cursorInRange s.cfg.geometry line column = true) :
    exec (.setCursor line column) s =
      sendCommand ⟨.fast, .host⟩ (ddramCommand s.cfg.geometry line column) s :=
  (prelude_of_runnable hrun _).trans (if_pos hrange)

/-- At the default geometry the column is the low nibble of the address (R55). -/
theorem ddramCommand_lcd1602 (line : Byte) {column : Byte} (h : column.toNat ≤ 15) :
    ddramCommand Geometry.lcd1602 line column =
      (if line = 0#8 then 0x8#4 else 0xC#4) ++ column.setWidth 4 := by
  have hfirst : ∀ c : Byte, c.toNat ≤ 15 → 0x80#8 + c = 0x8#4 ++ c.setWidth 4 := by decide
  have hsecond : ∀ c : Byte, c.toNat ≤ 15 → 0xC0#8 + c = 0xC#4 ++ c.setWidth 4 := by decide
  unfold ddramCommand
  split
  · exact hfirst column h
  · exact hsecond column h

/-- Settles O18: in range the address is a set-DDRAM-address command, which has no shadow bits; out of range
the operands are those that the guard rejects. -/
theorem setCursorSendsTheAddressOrRejects : Obligations.SetCursorSendsTheAddressOrRejects := by
  unfold Obligations.SetCursorSendsTheAddressOrRejects
  refine fun line column s htabled hrun =>
    ⟨fun ⟨hline, hcolumn⟩ => ?_, exec_of_operandsRejected (i := .setCursor line column) htabled hrun⟩
  have hrange : cursorInRange Geometry.lcd1602 line column = true := by
    rw [cursorInRange_lcd1602]
    omega
  have haddress := ddramCommand_lcd1602_ge (line := line) hcolumn
  obtain ⟨ddram, -⟩ := family_hd44780_ranges (ddramCommand Geometry.lcd1602 line column)
  rw [exec_setCursor_of_inRange hrun (htabled.2 ▸ hrange), htabled.2]
  exact sendCommand_uninjected htabled (ddram.2 haddress) rfl (inject_eq_zero s.st (.inl (by omega)))
    (ddramCommand_lcd1602 line hcolumn)

/-! ### A display-control flag written and the command re-sent (R89 to R92) -/

/-- The low nibble of the display-control command holds its three flags (R73). -/
theorem loNibble_opDispctl (st : ControlState) :
    loNibble CommandTable.hd44780 st CommandTable.hd44780.opDispctl .command =
      1#1 ++ BitVec.ofBool st.displayOn ++ BitVec.ofBool st.cursorVisible ++ BitVec.ofBool st.blinking := by
  rw [loNibble, inject_of_family_dispctl st (by decide)]
  cases st.displayOn <;> cases st.cursorVisible <;> cases st.blinking <;> rfl

/-- A display-control command is re-sent with the flags, the backlight bit among them, as they are after the
operation's writes (R89 to R92, R145). -/
theorem prelude_resendDisplayControl (htabled : Tabled s.cfg) (hrun : Runnable s) (st : ControlState) :
    prelude s (resendDisplayControl st s) =
      .next (accepted st
        (transmission 0x0#4
          (1#1 ++ BitVec.ofBool st.displayOn ++ BitVec.ofBool st.cursorVisible ++ BitVec.ofBool st.blinking)
          st.backlightOn false s.cfg.timing.fastDelay) s) := by
  obtain ⟨htable, -⟩ := htabled
  rw [prelude_of_runnable hrun, resendDisplayControl,
    transmit_one (by rw [htable]; exact hd44780_admits_opDispctl), htable, loNibble_opDispctl]
  rfl

/-- Settles O19: the flags re-sent are those after `displayOn` is written. -/
theorem setDisplayWritesAndResends : Obligations.SetDisplayWritesAndResends := by
  unfold Obligations.SetDisplayWritesAndResends
  exact fun on s htabled hrun => prelude_resendDisplayControl htabled hrun (s.st.setDisplay on)

/-- Settles O20: the flags re-sent, and the backlight bit, are those after both flags are written. -/
theorem setBacklightWritesBothAndResends : Obligations.SetBacklightWritesBothAndResends := by
  unfold Obligations.SetBacklightWritesBothAndResends
  exact fun on s htabled hrun => prelude_resendDisplayControl htabled hrun (s.st.setBacklight on)

/-- Settles O21: the flags re-sent are those after `cursorVisible` is written. -/
theorem setCursorVisibleWritesAndResends : Obligations.SetCursorVisibleWritesAndResends := by
  unfold Obligations.SetCursorVisibleWritesAndResends
  exact fun on s htabled hrun => prelude_resendDisplayControl htabled hrun (s.st.setCursorVisible on)

/-- Settles O22: the flags re-sent are those after `blinking` is written. -/
theorem setBlinkWritesAndResends : Obligations.SetBlinkWritesAndResends := by
  unfold Obligations.SetBlinkWritesAndResends
  exact fun on s htabled hrun => prelude_resendDisplayControl htabled hrun (s.st.setBlink on)

/-! ### The shifts (R93, R94) -/

/-- The low nibble of the shift command holds its two flags (R73). -/
theorem loNibble_opShift (st : ControlState) :
    loNibble CommandTable.hd44780 st CommandTable.hd44780.opShift .command =
      BitVec.ofBool st.shiftTargetIsDisplay ++ BitVec.ofBool st.shiftDirectionRight ++ 0#2 := by
  rw [loNibble, inject_of_family_shift st (by decide)]
  cases st.shiftTargetIsDisplay <;> cases st.shiftDirectionRight <;> rfl

theorem shiftBy_zero (display right : Bool) (s : State) :
    shiftBy display right 0 s = .next (accepted s.st [] s) := rfl

/-- A shift of at least one position sends one shift command for each, with the flags it has written. -/
theorem shiftBy_of_pos (htabled : Tabled s.cfg) (display right : Bool) {n : Nat} (hn : 0 < n) :
    shiftBy display right n s =
      .next (accepted (s.st.setShift display right)
        (List.replicate n
          (transmission 0x1#4 (BitVec.ofBool display ++ BitVec.ofBool right ++ 0#2) s.st.backlightOn false
            s.cfg.timing.fastDelay)).flatten s) := by
  obtain ⟨htable, -⟩ := htabled
  rw [shiftBy, if_neg hn.ne', transmit_of_admitted (by rw [htable]; exact hd44780_admits_opShift),
    items_repeated, items_sendTrace, htable, loNibble_opShift]
  rfl

/-- A shift request runs its count as it is, when the count fits `COUNT_W`. -/
theorem prelude_shiftBy_of_lt (hrun : Runnable s) (display right : Bool) {count : Nat}
    (hcount : count < 2 ^ s.cfg.countW) :
    prelude s (shiftBy display right (countOperand s.cfg.countW count) s) =
      shiftBy display right count s := by
  rw [prelude_of_runnable hrun, countOperand_of_lt hcount]

theorem exec_shiftDisplay (right : Bool) (count : Nat) (s : State) :
    exec (.shiftDisplay right count) s =
      prelude s (shiftBy true right (countOperand s.cfg.countW count) s) := rfl

theorem exec_shiftCursor (right : Bool) (count : Nat) (s : State) :
    exec (.shiftCursor right count) s =
      prelude s (shiftBy false right (countOperand s.cfg.countW count) s) := rfl

/-- Settles O23: the shift with the display as its target, of a count above zero and of zero. -/
theorem shiftDisplaySendsCountCommands : Obligations.ShiftDisplaySendsCountCommands := by
  unfold Obligations.ShiftDisplaySendsCountCommands
  refine ⟨fun right count s htabled hrun hcount => ⟨fun hpos => ?_, ?_⟩, fun right count s => ?_⟩
  · rw [exec_shiftDisplay, prelude_shiftBy_of_lt hrun true right hcount]
    exact shiftBy_of_pos htabled true right hpos
  · rw [exec_shiftDisplay, prelude_shiftBy_of_lt hrun true right (Nat.two_pow_pos _), shiftBy_zero]
  · rw [exec_shiftDisplay, exec_shiftDisplay, countOperand_mod]

/-- Settles O24: the shift with the cursor as its target, of a count above zero and of zero. -/
theorem shiftCursorSendsCountCommands : Obligations.ShiftCursorSendsCountCommands := by
  unfold Obligations.ShiftCursorSendsCountCommands
  refine ⟨fun right count s htabled hrun hcount => ⟨fun hpos => ?_, ?_⟩, fun right count s => ?_⟩
  · rw [exec_shiftCursor, prelude_shiftBy_of_lt hrun false right hcount]
    exact shiftBy_of_pos htabled false right hpos
  · rw [exec_shiftCursor, prelude_shiftBy_of_lt hrun false right (Nat.two_pow_pos _), shiftBy_zero]
  · rw [exec_shiftCursor, exec_shiftCursor, countOperand_mod]

/-! ### The loop of WRITE_STRING (R95) -/

/-- The loop from any result so far: a result other than OK stays, and OK leaves what the string gives. -/
theorem foldl_keepFirstNotOk (result : RspCode) (rs : List RspCode) :
    rs.foldl (fun result r => if result = 0#2 then r else result) result =
      if result = 0#2 then stringResult rs else result := by
  induction rs generalizing result with
  | nil =>
    split
    · assumption
    · rfl
  | cons r rs ih =>
    rw [List.foldl_cons, ih, stringResult_cons]
    split_ifs <;> rfl

/-- Settles O55: the loop starts with OK. -/
theorem stringResultIsTheFirstThatIsNotOk : Obligations.StringResultIsTheFirstThatIsNotOk := by
  unfold Obligations.StringResultIsTheFirstThatIsNotOk
  exact fun rs => (foldl_keepFirstNotOk 0#2 rs).symm

end Sys2Proof.Machine
end

section
/-! The initialization (R105 to R108): INIT's queue at the default table, its handshake and its run; and the
sequencing check of every request (R110, R117). -/

namespace Sys2Proof.Machine

variable {s : State}

/-! ### INIT's queue and trace at the default table (R105, R107, R108) -/

/-- Settles O46: the nibbles on the wire, from lines with Enable clear. -/
theorem initHandshakeAsLatched : Obligations.InitHandshakeAsLatched := by
  unfold Obligations.InitHandshakeAsLatched
  rintro cfg ⟨htable, -⟩
  exact latched_initItems_hd44780 0#8 htable

/-- Settles O26: at the defaults each raw pulse is a single nibble, and each full command a transmission whose
low nibble carries the flags of its family. -/
theorem initQueuesTheSequence : Obligations.InitQueuesTheSequence := by
  unfold Obligations.InitQueuesTheSequence
  intro s htabled hphase
  rw [execInit_of_uninitialized htabled hphase, initItems]
  simp only [rawPulse_eq, fullCommand, items_sendTrace, htabled.1]
  rfl

/-- The worked example of R105 is what INIT's queue emits. -/
theorem queueEvents_initItems_hd44780 {cfg : Config} (htable : cfg.table = CommandTable.hd44780) :
    queueEvents (initItems cfg ControlState.defaults) = initTrace cfg := by
  simp only [initItems, rawPulse_eq, fullCommand, items_sendTrace, htable]
  rfl

/-! ### The run of INIT (R105, R106, R119) -/

/-- The entries of INIT's queue, at any parameters: 53 events and 8 changes of phase. -/
theorem length_initItems (cfg : Config) (st : ControlState) : (initItems cfg st).length = 61 := by
  simp [initItems, rawPulse_eq, fullCommand, items_sendTrace, singleNibble, transmission]

theorem length_writes_initTrace (cfg : Config) : (writes (initTrace cfg)).length = 24 := rfl

/-- A step takes an INIT word whatever its fields hold (R59). -/
theorem step_init {a b : Byte} {cs : List Code} (hp : Presented s (.req (reqWord 0x00#8 a b)) cs) :
    step s = exec .init (s.setInput cs) := by
  rw [step_presented hp, runCode_of_decode (decode_reqWord_init a b)]

/-- The state of an idle block `s` in `Uninitialized` when INIT's whole trace has been emitted, before the
response (R105, R106). -/
def State.initEmitted (s : State) : State :=
  { s with
    st := ControlState.defaults
    busy := true
    queue := []
    trace := s.trace ++ initTrace s.cfg
    phase := .ready
    tf := someFail s.cfg.identity s.draws 24
    draws := s.draws + 24 }

/-- What accepted INIT comes to: its queue enters every phase of the chain and has 24 writes. -/
theorem drained_init (htable : s.cfg.table = CommandTable.hd44780) :
    (accepted ControlState.defaults (initItems s.cfg ControlState.defaults) s).drained = s.initEmitted := by
  simp only [State.drained, accepted, State.initEmitted, queueEvents_initItems_hd44780 htable,
    queuePhases_initItems, length_writes_initTrace, Bool.false_or]
  rfl

/-- Accepted INIT runs in 62 steps: one for each entry of its queue, and the response. -/
theorem runSteps_accepted_init (hr : s.resetIn = false) (hs : s.stalled = false)
    (htable : s.cfg.table = CommandTable.hd44780) :
    runSteps 62 (accepted ControlState.defaults (initItems s.cfg ControlState.defaults) s) =
      .next (s.initEmitted.respond (completion s.initEmitted.tf)) := by
  have hsteps : 62 = (initItems s.cfg ControlState.defaults).length + 1 := by rw [length_initItems]
  rw [hsteps, ← drained_init htable]
  exact runSteps_to_response hr hs rfl fun _ => initItems_readWrite

/-- Settles O37: from `Uninitialized` the word is accepted and its queue runs to the response; in any other
phase INIT is rejected in the step that takes it. -/
theorem initReachesReady : Obligations.InitReachesReady := by
  unfold Obligations.InitReachesReady
  refine fun s a b cs hp htabled => ⟨fun hphase hs => ?_, fun hphase => ?_⟩
  · have haccept := (step_init hp).trans (execInit_of_uninitialized (s := s.setInput cs) htabled hphase)
    obtain ⟨-, hr, -⟩ := hp
    have hrun := runSteps_accepted_init (s := s.setInput cs) hr hs htabled.1
    exact ⟨_, (runSteps_succ haccept).trans hrun, rfl, rfl, rfl, rfl, someFail_iff, completion_code _, rfl,
      rfl, rfl⟩
  · exact (step_init hp).trans (execInit_of_not_uninitialized (s := s.setInput cs) hphase)

/-! ### The sequencing check (R110, R117) -/

/-- The outcomes of a request that has passed the sequencing check: INVALID_ARGUMENT from a guard, or
acceptance (R120). -/
def PassedSequencing (s : State) (o : Host.Outcome State Fault Refusal) : Prop :=
  o = .next (responded 1#2 s) ∨ ∃ st q, o = .next (accepted st q s)

theorem transmit_passedSequencing (st : ControlState) (n : Nat) (v : Byte) (m : Mode) (d : Nat)
    (ctx : Context) (s : State) : PassedSequencing s (transmit st n v m d ctx s) := by
  cases h : sendAdmitted s.cfg.table m v ctx with
  | true => exact .inr (transmit_accepted h st n d)
  | false => exact .inl (transmit_of_rejected h st n d)

theorem shiftBy_passedSequencing (display right : Bool) (n : Nat) (s : State) :
    PassedSequencing s (shiftBy display right n s) := by
  unfold shiftBy
  split
  · exact .inr ⟨_, _, rfl⟩
  · exact transmit_passedSequencing ..

/-- At any parameters an operation that may run meets only its guards (R120). -/
theorem exec_passedSequencing {i : Instr} (hi : isCommandLayer i = true) (hrun : Runnable s) :
    PassedSequencing s (exec i s) := by
  have behind {body : Host.Outcome State Fault Refusal} (hbody : PassedSequencing s body) :
      PassedSequencing s (prelude s body) := by
    rwa [prelude_of_runnable hrun]
  cases i with
  | init | cmdDdram | cmdCgram | cmdFunc | cmdShift | cmdDispctl | cmdEntry | cmdOther | nibbleEnSet
  | nibbleEnClr | rspOk | rspInvalidArgument | rspTransportFailure | rspSequencingViolation =>
    cases hi
  | clear | writeChar | setDisplay | setBacklight | setCursorVisible | setBlink | sendByte =>
    exact behind (transmit_passedSequencing ..)
  | setCursor line column =>
    refine behind ?_
    split
    · exact transmit_passedSequencing ..
    · exact .inl rfl
  | shiftDisplay | shiftCursor => exact behind (shiftBy_passedSequencing ..)

/-- The response tells INVALID_ARGUMENT from SEQUENCING_VIOLATION, and `busy` an acceptance from both. -/
theorem PassedSequencing.ne_sequencingViolation {o : Host.Outcome State Fault Refusal}
    (h : PassedSequencing s o) : o ≠ .next (responded 3#2 s) := by
  obtain rfl | ⟨st, q, rfl⟩ := h <;> simp [responded, accepted]

/-- Settles O33: the check comes before every operand guard, and nothing behind it answers so. -/
theorem sequencingIsChecked : Obligations.SequencingIsChecked := by
  unfold Obligations.SequencingIsChecked
  exact ⟨fun i s hi hstrict hphase => exec_of_not_runnable hi fun hrun => hphase (hrun hstrict),
    fun s hphase => execInit_of_not_uninitialized hphase,
    fun s htabled hphase => ⟨_, execInit_of_uninitialized htabled hphase⟩,
    fun i s hi hrun => (exec_passedSequencing hi hrun).ne_sequencingViolation⟩

end Sys2Proof.Machine
end

section
/-! The transport's answers (R119, R124): what one write and one completion do with them, and that the steps of
two states that differ in them only come to two such states. -/

namespace Sys2Proof.Machine

variable {s s' : State}

/-! ### One write and one completion (R23, R119) -/

theorem emitWrite_tf_eq_ite (s : State) (b : Byte) (a : Answer) :
    (s.emitWrite b a).tf = if a = .fail then true else s.tf := by
  cases a <;> simp

/-- Settles O34: the write at the head of the queue is emitted with its answer; the completion was settled
with the order of the checks. -/
theorem failedWriteOnlySetsTf : Obligations.FailedWriteOnlySetsTf := by
  unfold Obligations.FailedWriteOnlySetsTf
  refine ⟨fun s b q hr hb hs hq hbit => ?_, requestsAreCheckedInOrder.2⟩
  have htf := emitWrite_tf_eq_ite (s.setQueue q) b (Config.transportAnswer s.cfg.identity s.draws)
  rw [State.setQueue_tf] at htf
  rw [step_write hr hb hq hs hbit, ← htf]
  rfl

/-! ### States that differ in the answers only -/

/-- The two states differ at most in `tf`, in the answers to come, in `rsp` and in which responses they have
presented, of which there are equally many. -/
structure AlikeButAnswers (s s' : State) : Prop where
  cfg : s'.cfg = s.cfg
  st : s'.st = s.st
  phase : s'.phase = s.phase
  busy : s'.busy = s.busy
  queue : s'.queue = s.queue
  trace : s'.trace = s.trace
  input : s'.input = s.input
  resetIn : s'.resetIn = s.resetIn
  stalled : s'.stalled = s.stalled
  responses : s'.responses.length = s.responses.length

/-- The second state is the first with other answers. -/
theorem AlikeButAnswers.exists_eq (h : AlikeButAnswers s s') : ∃ tf draws rsp responses,
    s' = { s with tf := tf, draws := draws, rsp := rsp, responses := responses } := by
  refine ⟨s'.tf, s'.draws, s'.rsp, s'.responses, ?_⟩
  rw [← h.cfg, ← h.st, ← h.phase, ← h.busy, ← h.queue, ← h.trace, ← h.input, ← h.resetIn, ← h.stalled]

theorem AlikeButAnswers.blockReset (h : AlikeButAnswers s s') : AlikeButAnswers s.blockReset s'.blockReset :=
  { h with st := rfl, phase := rfl, busy := rfl, queue := rfl, resetIn := rfl }

theorem AlikeButAnswers.setQueue (h : AlikeButAnswers s s') (q : List Item) :
    AlikeButAnswers (s.setQueue q) (s'.setQueue q) :=
  { h with queue := rfl }

theorem AlikeButAnswers.setInput (h : AlikeButAnswers s s') (cs : List Code) :
    AlikeButAnswers (s.setInput cs) (s'.setInput cs) :=
  { h with input := rfl }

theorem AlikeButAnswers.enterPhase (h : AlikeButAnswers s s') (p : Phase) :
    AlikeButAnswers (s.enterPhase p) (s'.enterPhase p) :=
  { h with phase := rfl }

theorem AlikeButAnswers.emit (h : AlikeButAnswers s s') (e : Event) :
    AlikeButAnswers (s.emit e) (s'.emit e) :=
  { h with trace := by simp [h.trace] }

/-- The two answers to a write may differ (R119). -/
theorem AlikeButAnswers.emitWrite (h : AlikeButAnswers s s') (b : Byte) (a a' : Answer) :
    AlikeButAnswers (s.emitWrite b a) (s'.emitWrite b a') :=
  { h with trace := by simp [h.trace] }

/-- The two results may differ. -/
theorem AlikeButAnswers.respond (h : AlikeButAnswers s s') (r r' : Result) :
    AlikeButAnswers (s.respond r) (s'.respond r') :=
  { h with busy := rfl, responses := by simp [h.responses] }

theorem AlikeButAnswers.accept (h : AlikeButAnswers s s') (st : ControlState) (q : List Item) :
    AlikeButAnswers (s.accept st q) (s'.accept st q) :=
  { h with st := rfl, busy := rfl, queue := rfl }

/-! ### What the operations do at two such states -/

/-- When the first outcome is a next state, the second is one too, and the two are alike. -/
def OutcomesAlike (o o' : Host.Outcome State Fault Refusal) : Prop :=
  ∀ t, o = .next t → ∃ t', o' = .next t' ∧ AlikeButAnswers t t'

theorem AlikeButAnswers.next (h : AlikeButAnswers s s') : OutcomesAlike (.next s) (.next s') := by
  rintro t ⟨⟩
  exact ⟨s', rfl, h⟩

theorem raise_alike (h : AlikeButAnswers s s') (r : Result) : OutcomesAlike (raise r s) (raise r s') :=
  (h.respond r r).next

theorem prelude_alike {body body' : Host.Outcome State Fault Refusal} (h : AlikeButAnswers s s')
    (hbody : OutcomesAlike body body') : OutcomesAlike (prelude s body) (prelude s' body') := by
  have hsequenced : sequenced s' = sequenced s := by rw [sequenced, h.cfg, h.phase, ← sequenced]
  unfold prelude
  rw [hsequenced]
  split
  · exact hbody
  · exact raise_alike h _

theorem transmit_alike {st : ControlState} {n d : Nat} {v : Byte} {m : Mode} {ctx : Context}
    (h : AlikeButAnswers s s') : OutcomesAlike (transmit st n v m d ctx s) (transmit st n v m d ctx s') := by
  unfold transmit
  rw [h.cfg]
  split
  · exact (h.accept st _).next
  · exact raise_alike h _

theorem shiftBy_alike {display right : Bool} {n : Nat} (h : AlikeButAnswers s s') :
    OutcomesAlike (shiftBy display right n s) (shiftBy display right n s') := by
  unfold shiftBy
  rw [h.cfg, h.st]
  split
  · exact (h.accept s.st []).next
  · exact transmit_alike h

theorem execInit_alike (h : AlikeButAnswers s s') : OutcomesAlike (execInit s) (execInit s') := by
  unfold execInit
  rw [h.cfg, h.phase]
  split
  · split
    · exact (h.accept _ _).next
    · exact raise_alike h _
  · exact raise_alike h _

/-- No instruction reads `tf`, `rsp` or the responses, and a write alone draws an answer (R119). -/
theorem exec_alike (h : AlikeButAnswers s s') (i : Instr) : OutcomesAlike (exec i s) (exec i s') := by
  obtain ⟨tf, draws, rsp, responses, rfl⟩ := h.exists_eq
  cases i with
  | init => exact execInit_alike h
  | setCursor line column =>
    refine prelude_alike h ?_
    dsimp only
    split
    · exact transmit_alike h
    · exact raise_alike h _
  | clear | writeChar | setDisplay | setBacklight | setCursorVisible | setBlink | sendByte =>
    exact prelude_alike h (transmit_alike h)
  | shiftDisplay | shiftCursor => exact prelude_alike h (shiftBy_alike h)
  | cmdDdram | cmdCgram | cmdFunc | cmdShift | cmdDispctl | cmdEntry | cmdOther => exact transmit_alike h
  | nibbleEnSet | nibbleEnClr => exact (h.emitWrite _ _ _).next
  | rspOk | rspInvalidArgument | rspTransportFailure | rspSequencingViolation => exact (h.respond _ _).next

theorem runCode_alike (h : AlikeButAnswers s s') (c : Code) : OutcomesAlike (runCode c s) (runCode c s') := by
  unfold runCode
  cases decode c with
  | ok i => exact exec_alike h i
  | error e =>
    cases e with
    | reservedOpcode op => exact raise_alike h _
    | readWriteSet b => rintro t ⟨⟩

/-- A result code completes with its result (R60). -/
theorem runCode_result (r : Result) (s : State) : runCode (.rsp r.code) s = .next (s.respond r) := by
  cases r <;> rfl

theorem perform_emitHead_alike (h : AlikeButAnswers s s') (e : Event) :
    OutcomesAlike (perform (emitHead e s)) (perform (emitHead e s')) := by
  cases e with
  | write b => exact runCode_alike h (.nib b)
  | delay n => exact (h.emit _).next
  | configure bus sda scl rate => exact (h.emit _).next

/-- The completion alone reads `tf`, and only for its result (R119). -/
theorem perform_advanceBusy_alike (h : AlikeButAnswers s s') :
    OutcomesAlike (perform (advanceBusy s)) (perform (advanceBusy s')) := by
  unfold advanceBusy
  rw [h.queue, h.stalled]
  match s.queue with
  | [] =>
    simp only [perform, runCode_result]
    exact (h.respond _ _).next
  | .enter p :: q => exact ((h.setQueue q).enterPhase p).next
  | .emit e :: q =>
    dsimp only
    split
    · exact h.next
    · exact perform_emitHead_alike (h.setQueue q) e

theorem perform_advanceIdle_alike (h : AlikeButAnswers s s') :
    OutcomesAlike (perform (advanceIdle s)) (perform (advanceIdle s')) := by
  unfold advanceIdle
  rw [h.input]
  cases s.input with
  | nil => exact h.next
  | cons c cs => exact runCode_alike (h.setInput cs) c

/-- The next action is chosen by what the two states share (R21, R135). -/
theorem step_alike (h : AlikeButAnswers s s') : OutcomesAlike (step s) (step s') := by
  unfold step advance
  rw [h.resetIn, h.busy]
  split
  · exact h.blockReset.next
  · split
    · exact perform_advanceBusy_alike h
    · exact perform_advanceIdle_alike h

/-- Settles O35: the two states are alike, and a step keeps them so. -/
theorem transportAnswersShowOnlyInTheResult : Obligations.TransportAnswersShowOnlyInTheResult := by
  unfold Obligations.TransportAnswersShowOnlyInTheResult
  intro s t f n hstep
  have halike : AlikeButAnswers s { s with tf := f, draws := n } :=
    ⟨rfl, rfl, rfl, rfl, rfl, rfl, rfl, rfl, rfl, rfl⟩
  obtain ⟨t', hstep', ht⟩ := step_alike halike t hstep
  obtain ⟨tf, draws, rsp, responses, rfl⟩ := ht.exists_eq
  exact ⟨_, hstep', rfl, ht.responses⟩

end Sys2Proof.Machine
end

section
/-! Progress (R61, R115, R122): a code that is legal stops nothing, and what the engine queues is legal. -/

namespace Sys2Proof.Machine

variable {s : State}

/-- A legal code is an instruction, or a reserved request, which is answered (R61, R115). -/
theorem runCode_next_of_legal {c : Code} (h : Code.legal c = true) (s : State) :
    ∃ t, runCode c s = .next t := by
  cases c with
  | req w =>
    by_cases hreserved : 0x0B ≤ (reqOp w).toNat
    · rw [runCode, decodeRequest_reserved hreserved]
      exact ⟨_, rfl⟩
    · obtain ⟨i, hdecode, -, -⟩ := decodeRequest_defined (not_le.1 hreserved)
      rw [runCode_of_decode hdecode]
      exact exec_next i s
  | cmd v caller => exact exec_next (decodeCommand caller v) s
  | nib b =>
    have hbit : b.getLsbD 1 = false := by simpa [Code.legal] using h
    exact ⟨_, runCode_nib hbit s⟩
  | rsp r => exact exec_next (decodeResponse r) s

/-- Settles O4: the codes at the input are legal by the premise, the writes in the queue by the invariant, and
every other step is the engine's own. -/
theorem noStepStopsTheBlock : Obligations.NoStepStopsTheBlock := by
  unfold Obligations.NoStepStopsTheBlock
  intro s hinv hlegal
  cases hr : s.resetIn with
  | true => exact ⟨_, step_reset hr⟩
  | false =>
    cases hb : s.busy with
    | false =>
      cases hi : s.input with
      | nil => exact ⟨_, step_idle hr hb hi⟩
      | cons c cs =>
        rw [Safe, step_presented ⟨hb, hr, hi⟩]
        exact runCode_next_of_legal (hlegal c (by simp [hi])) _
    | true =>
      match hq : s.queue with
      | [] => exact ⟨_, step_complete hr hb hq⟩
      | .enter p :: q => exact ⟨_, step_enter hr hb hq⟩
      | .emit e :: q =>
        cases hs : s.stalled with
        | true => exact ⟨_, step_stalled hr hb hq hs⟩
        | false =>
          obtain ⟨u, hstep, -⟩ := step_of_queue_cons hr hs hb hq hinv.wire
          exact ⟨u, hstep⟩

end Sys2Proof.Machine
end

section
/-! Several blocks side by side (R130). -/

namespace Sys2Proof.Machine

/-- The step of a block in the list puts that block's own next state in its place; a number with no block
does nothing. -/
theorem stepInstance_cases {k : Nat} {blocks after : List State} (h : stepInstance k blocks = .next after) :
    (blocks[k]? = none ∧ after = blocks) ∨
    ∃ s t, blocks[k]? = some s ∧ step s = .next t ∧ after = blocks.set k t := by
  unfold stepInstance at h
  split at h
  · next hnone => cases h; exact .inl ⟨hnone, rfl⟩
  · next s hsome =>
    split at h
    · next t hstep => cases h; exact .inr ⟨s, t, hsome, hstep, rfl⟩
    · cases h
    · cases h

/-- Settles O52: one place of the list is set, and nothing else. -/
theorem instancesAreIndependent : Obligations.InstancesAreIndependent := by
  unfold Obligations.InstancesAreIndependent
  intro k blocks after h
  obtain ⟨hnone, rfl⟩ | ⟨s, t, hsome, hstep, rfl⟩ := stepInstance_cases h
  · exact ⟨rfl, fun _ _ => rfl, fun s hsome => by simp [hnone] at hsome⟩
  · obtain ⟨hk, -⟩ := List.getElem?_eq_some_iff.1 hsome
    refine ⟨List.length_set, fun j hj => List.getElem?_set_ne hj.symm, fun u hu => ?_⟩
    obtain rfl : s = u := Option.some.inj (hsome.symm.trans hu)
    exact ⟨t, hstep, List.getElem?_set_self hk⟩

end Sys2Proof.Machine
end

section
/-! Reset, waiting, and the counts of INIT's trace (R135, R136, R149, R151). -/

namespace Sys2Proof.Machine

variable {s t : State}

/-! ### Reset and waiting (R21, R135, R136, R151) -/

/-- A block that a reset has left idle stays as it is while nothing is presented (R21). -/
theorem step_blockReset (hi : s.input = []) : step s.blockReset = .next s.blockReset :=
  step_idle s.blockReset_resetIn s.blockReset_busy (s.blockReset_input.trans hi)

/-- INIT that starts to run has written the defaults; a rejected one starts nothing (R105, R121). -/
theorem exec_init_accepted_st (h : exec .init s = .next t) (hb : t.busy = true) :
    t.st = ControlState.defaults := by
  rcases execInit_cases h with ⟨r, rfl⟩ | ⟨-, rfl⟩
  · simp at hb
  · exact s.accept_st ..

/-- Settles O1: the state written out is `blockReset`, which takes the reset input away. -/
theorem resetPutsEveryElementAtItsValue : Obligations.ResetPutsEveryElementAtItsValue := by
  unfold Obligations.ResetPutsEveryElementAtItsValue
  exact ⟨fun s hr => ⟨false, step_reset hr⟩, fun s => ⟨rfl, step_blockReset (s := s)⟩, rfl, rfl, rfl,
    fun s t _ => exec_init_accepted_st⟩

/-- Settles O51: the two waits are steps to the same state, and a reset comes before both. -/
theorem waitingChangesNothing : Obligations.WaitingChangesNothing := by
  unfold Obligations.WaitingChangesNothing
  exact ⟨fun s e q => step_stalled, fun s => step_idle,
    fun s hr => ⟨s.blockReset, step_reset hr, s.blockReset_busy⟩⟩

/-! ### The counts of INIT's trace, at any parameters (R105, R149) -/

theorem length_queueEvents_initItems (cfg : Config) (st : ControlState) :
    (queueEvents (initItems cfg st)).length = 53 := by
  simp [initItems, rawPulse_eq, fullCommand, items_sendTrace, singleNibble, transmission]

theorem length_writes_initItems (cfg : Config) (st : ControlState) :
    (writes (queueEvents (initItems cfg st))).length = 24 := by
  simp [initItems, rawPulse_eq, fullCommand, items_sendTrace, singleNibble, transmission]

theorem length_delays_initItems (cfg : Config) (st : ControlState) :
    (delays (queueEvents (initItems cfg st))).length = 28 := by
  simp [initItems, rawPulse_eq, fullCommand, items_sendTrace, singleNibble, transmission]

theorem sum_delays_rawPulse (cfg : Config) (st : ControlState) (v : Byte) :
    (delays (queueEvents (rawPulse cfg st v))).sum = 2 * cfg.timing.fastDelay := by
  simp [rawPulse_eq, singleNibble, two_mul]

theorem sum_delays_fullCommand (cfg : Config) (st : ControlState) (v : Byte) (d : Nat) :
    (delays (queueEvents (fullCommand cfg st v d))).sum = 4 * d := by
  simp only [fullCommand, queueEvents_items, sendTrace, pulse, List.cons_append, List.nil_append,
    delays_write, delays_delay, delays_nil, List.sum_cons, List.sum_nil]
  omega

/-- Four raw pulses and three commands at the fast delay, the clear at the slow one, and four waits between
them. -/
theorem sum_delays_initItems (cfg : Config) (st : ControlState) :
    (delays (queueEvents (initItems cfg st))).sum =
      cfg.timing.powerOn + cfg.timing.init1 + cfg.timing.init2 + cfg.timing.preClear
        + 20 * cfg.timing.fastDelay + 4 * cfg.timing.slowDelay := by
  simp only [initItems, queueEvents_append, queueEvents_emit, queueEvents_enter, queueEvents_nil,
    delays_append, delays_configure, delays_delay, delays_nil, List.sum_append, List.sum_cons, List.sum_nil,
    sum_delays_rawPulse, sum_delays_fullCommand]
  omega

/-- Settles O47: the sum is that of the default timing. -/
theorem initEventCounts : Obligations.InitEventCounts := by
  unfold Obligations.InitEventCounts
  exact ⟨length_queueEvents_initItems .., length_writes_initItems .., length_delays_initItems ..,
    sum_delays_initItems ..⟩

end Sys2Proof.Machine
end
